-- ==== Sys2Proof/Word.lean ====
section
/-! DEFINITION. The plain data types of the block: bytes, 16-bit values, and the records of a keymap
(00_scope.md R10, R11; 10_state.md R32, R33, R34). -/

namespace Sys2Proof

/-- A byte, the `u8` of 00_scope.md R10. -/
abbrev Byte := BitVec 8

/-- A 16-bit value, the `u16` of 00_scope.md R10. -/
abbrev Half := BitVec 16

/-- A finite sequence of bytes (00_scope.md R11), first byte of the wire order at the head. -/
abbrev Bytes := List Byte

/-- One macro step (10_state.md R32). `op` and `mask` are the whole bytes of the wire and are never interpreted. -/
structure MacroStep where
  op    : Byte
  mask  : Byte
  keys  : Vector Byte 6
  delay : Half
deriving DecidableEq, Repr, Inhabited

/-- One key action (10_state.md R33). The length of `steps` is the spec's `macroLength`; the bound of 16 on stored
actions (R37) is part of `State.Inv`, not of this type, because CFG.WR may be handed a longer one and refuses it. -/
structure Action where
  kind  : Byte
  mask  : Byte
  keys  : Vector Byte 6
  steps : List MacroStep
deriving DecidableEq, Repr, Inhabited

/-- A keymap: 50 cells by flat index `l*25 + r*5 + c` (10_state.md R34, 20_memory.md R62). -/
abbrev Keymap := Vector Action 50

end Sys2Proof
end

