-- ==== Sys2Proof/Config.lean ====
section
/-! DEFINITION. The constants of 00_scope.md R8, the parameters of R9 with their defaults, and the one parameter that
has no default, the default keymap. -/

namespace Sys2Proof.Config

/-- The constants of 00_scope.md R8. -/
def sync : Byte := 0xA5
/-- Frame `ver` byte the builder writes (30_encoding.md R101). -/
def protoVer : Byte := 1
/-- Frame terminator on the wire (30_encoding.md R90). -/
def term : Byte := 0x00
/-- Shortest raw frame: sync, header and CRC (30_encoding.md R100). -/
def minFrame : Nat := 8
def crcPoly : Half := 0x1021
def crcInit : Half := 0xFFFF
/-- Data bytes of a full COBS group (41_cobs.md R163). -/
def cobsMaxRun : Nat := 254
/-- Code byte of a full COBS group (30_encoding.md R91). -/
def cobsFullCode : Byte := 0xFF
def cfgVer : Byte := 3
def rows : Nat := 5
def cols : Nat := 5
def layers : Nat := 2
def macroMax : Nat := 16
def fnRow : Nat := 4
def fnCol : Nat := 2
def timeoutMs : Nat := 5000
def cfgHdrLen : Nat := 7
/-- Header and CRC of a config payload with no entry (45_config_codec.md R296). -/
def cfgMinLen : Nat := 9
def entryFixedLen : Nat := 12
def stepLen : Nat := 10
/-- Longest payload the 16-bit `length` field can name (30_encoding.md R104). -/
def maxPayload : Nat := 65535

/-- The command types of 30_encoding.md R108. -/
def typePing : Byte := 0x01
def typePong : Byte := 0x02
def typeGetmap : Byte := 0x10
def typeSetmap : Byte := 0x11
def typeSave : Byte := 0x12
def typeLoad : Byte := 0x13
def typeResetdefault : Byte := 0x14
def typeGetinfo : Byte := 0x15
def typeError : Byte := 0x7F

/-- Codes of enumerations (30_encoding.md R121, decision D19); of all of them only `KIND_MACRO` is read by a rule, and
that one is read from `State.params`. DESIGN CHOICE of the spec, unsafe to rest a claim about the keyboard on: log 21. -/
def kindNone : Byte := 0
def kindNormal : Byte := 1
def kindChord : Byte := 2
def kindMacro : Byte := 3
def opKeydown : Byte := 0
def opKeyup : Byte := 1
def opDelay : Byte := 2
/-- Bit positions in a modifier mask. -/
def modCtrl : Nat := 0
def modShift : Nat := 1
def modAlt : Nat := 2
def modWin : Nat := 3

/-- Defaults of the parameters that the spec decides and also lets a model take as arguments (00_scope.md R9). -/
def seqReset : Byte := 0x00
def rxBufCap : Nat := 65802

/-- DEFAULT_CFG, the OPEN parameter (00_scope.md R9, decision D25): the spec gives the 50 default actions nowhere, so
nothing here says what they are. Safe: log 7. -/
opaque defaultCells : Keymap

/-- The default keymap of the block. A macro is cut to 16 steps because every stored action has at most 16
(10_state.md R37); a keymap that keeps that rule is unchanged by the cut, so every default the spec admits is covered. -/
def defaultMap : Keymap :=
  ⟨⟨defaultCells.toList.map fun a => { a with steps := a.steps.take macroMax }⟩, by simp⟩

end Sys2Proof.Config
end

