-- ==== Sys2Proof/Machine/Bytes.lean ====
section
/-! DEFINITION. Byte order and the reading of byte sequences (00_scope.md R11; 20_memory.md R64, R66). -/

namespace Sys2Proof.Machine

/-- `lo8(v) = v[7:0]` (00_scope.md R11). -/
def lo8 (v : Half) : Byte := v.extractLsb' 0 8

/-- `hi8(v) = v[15:8]` (00_scope.md R11). -/
def hi8 (v : Half) : Byte := v.extractLsb' 8 8

/-- `le16(lo, hi) = lo | (hi << 8)` (00_scope.md R11). -/
def le16 (lo hi : Byte) : Half := lo.setWidth 16 ||| (hi.setWidth 16 <<< 8)

/-- A 16-bit value as the two bytes of the wire, low byte first (20_memory.md R64). -/
def leBytes (v : Half) : Bytes := [lo8 v, hi8 v]

/-- `s[i]`. Every use stands behind a check that `i` is below the length; elsewhere it is 0x00. -/
def byteAt (s : Bytes) (i : Nat) : Byte := s.getD i 0

/-- `s[i .. j)`. -/
def slice (s : Bytes) (i j : Nat) : Bytes := (s.drop i).take (j - i)

/-- The six key bytes at `i` (30_encoding.md R118, R119). -/
def keysAt (s : Bytes) (i : Nat) : Vector Byte 6 :=
  #v[byteAt s i, byteAt s (i + 1), byteAt s (i + 2), byteAt s (i + 3), byteAt s (i + 4), byteAt s (i + 5)]

/-- A macro step's 10 bytes (30_encoding.md R119). -/
def stepBytes (s : MacroStep) : Bytes := [s.op, s.mask] ++ s.keys.toList ++ leBytes s.delay

/-- The macro step at `i` (30_encoding.md R119). -/
def stepAt (s : Bytes) (i : Nat) : MacroStep :=
  { op := byteAt s i, mask := byteAt s (i + 1), keys := keysAt s (i + 2),
    delay := le16 (byteAt s (i + 8)) (byteAt s (i + 9)) }

end Sys2Proof.Machine
end

