-- ==== Sys2Proof/Machine/Errors.lean ====
section
/-! DEFINITION. The error classes, their sub-reasons and the refusal reasons (60_exceptions.md R320 to R322, R328). -/

namespace Sys2Proof.Machine

/-- The status of a `Notify` and the class of an error (60_exceptions.md R321). -/
inductive Status where
  | ok
  | framingError
  | integrityError
  | formatError
  | deviceError
  | timeoutError
deriving DecidableEq, Repr, Inhabited

/-- The codes of 60_exceptions.md R321. -/
def Status.code : Status → Nat
  | .ok => 0
  | .framingError => 1
  | .integrityError => 2
  | .formatError => 3
  | .deviceError => 4
  | .timeoutError => 5

/-- The sub-reasons of 60_exceptions.md R322, each under one class; `none` is the 0 of OK, DeviceError and
TimeoutError. `runTruncated` is the Truncated of FramingError, `truncated` that of FormatError. -/
inductive Sub where
  | none
  | zeroCode
  | runTruncated
  | overflow
  | badCrc
  | badSync
  | badLength
  | badHeader
  | badIndex
  | macroTooLong
  | nonMacroLen
  | truncated
  | trailing
deriving DecidableEq, Repr, Inhabited

/-- The numbers of 60_exceptions.md R322 within each class. -/
def Sub.code : Sub → Nat
  | .none => 0
  | .zeroCode => 1
  | .runTruncated => 2
  | .overflow => 3
  | .badCrc => 1
  | .badSync => 1
  | .badLength => 2
  | .badHeader => 3
  | .badIndex => 4
  | .macroTooLong => 5
  | .nonMacroLen => 6
  | .truncated => 7
  | .trailing => 8

/-- A computation that may `raise` an error of a class with a sub-reason (00_scope.md R13). -/
inductive Checked (α : Type) where
  | ok (v : α)
  | err (cls : Status) (sub : Sub)
deriving DecidableEq, Repr

/-- The reasons an operation is refused (60_exceptions.md R328). `unassignedOpsel` is the selector that names no
operation (30_encoding.md R124); `badOperands` is the model's own, for operand bytes that are no operands of the
selector's operation (DESIGN CHOICE: log 3). -/
inductive RefuseReason where
  | payloadTooLong
  | timeBackwards
  | badIndex
  | fnKeyReserved
  | macroTooLong
  | unassignedOpsel
  | badOperands
deriving DecidableEq, Repr, Inhabited

end Sys2Proof.Machine
end

