-- ==== Sys2Proof/Machine/Cobs.lean ====
section
/-! DEFINITION. The COBS codec (41_cobs.md R163, R167; the stream is 30_encoding.md R91). -/

namespace Sys2Proof.Machine

/-- The code byte of a group of `run` (41_cobs.md R163). -/
def cobsCode (run : Bytes) : Byte := BitVec.ofNat 8 (run.length + 1)

/-- COBS.ENC with `run` the data bytes of the group being built (41_cobs.md R163). The last group is always written
(R165, decision D8). -/
def cobsEncFrom (run : Bytes) : Bytes → Bytes
  | [] => cobsCode run :: run
  | b :: x =>
    if b = 0 then cobsCode run :: run ++ cobsEncFrom [] x
    else if run.length + 1 = Config.cobsMaxRun then Config.cobsFullCode :: (run ++ [b]) ++ cobsEncFrom [] x
    else cobsEncFrom (run ++ [b]) x

/-- COBS.ENC (41_cobs.md R163). -/
def cobsEnc (x : Bytes) : Bytes := cobsEncFrom [] x

/-- COBS.DEC of what is left of the stream (41_cobs.md R167). `fuel` bounds the number of groups; each group takes at
least its code byte, so the length of the stream is enough. -/
def cobsDecFrom : Nat → Bytes → Checked Bytes
  | _, [] => .ok []
  | 0, _ :: _ => .ok []
  | fuel + 1, c :: y =>
    if c = 0 then .err .framingError .zeroCode
    else if y.length < c.toNat - 1 then .err .framingError .runTruncated
    else
      let rest := y.drop (c.toNat - 1)
      let zero : Bytes := if c ≠ Config.cobsFullCode ∧ rest ≠ [] then [0] else []
      match cobsDecFrom fuel rest with
      | .ok out => .ok (y.take (c.toNat - 1) ++ zero ++ out)
      | .err cls sub => .err cls sub

/-- COBS.DEC (41_cobs.md R167); on an error there is no data at all. -/
def cobsDec (y : Bytes) : Checked Bytes := cobsDecFrom y.length y

end Sys2Proof.Machine
end

