-- ==== Sys2Proof/Machine/Crc.lean ====
section
/-! DEFINITION. The CRC function (40_crc16.md R141): polynomial 0x1021, initial value 0xFFFF, most significant bit
first, no reflection, no final XOR. The algorithm wins over the literal 0x906E of the source (R148; conflict C1). -/

namespace Sys2Proof.Machine

/-- One of the eight rounds; the test is on the value before the shift (40_crc16.md R141). -/
def crcRound (acc : Half) : Half :=
  if acc.msb then (acc <<< 1) ^^^ Config.crcPoly else acc <<< 1

/-- The eight rounds that follow the XOR of a byte. -/
def crcRounds : Nat → Half → Half
  | 0, acc => acc
  | n + 1, acc => crcRounds n (crcRound acc)

/-- `crc_step` (40_crc16.md R141). -/
def crcStep (acc : Half) (b : Byte) : Half :=
  crcRounds 8 (acc ^^^ (b.setWidth 16 <<< 8))

/-- The fold of `crc_step` over `s` from a given register (40_crc16.md R142). -/
def crcFold (acc : Half) (s : Bytes) : Half := s.foldl crcStep acc

/-- `crc16` (40_crc16.md R141). -/
def crc16 (s : Bytes) : Half := crcFold Config.crcInit s

end Sys2Proof.Machine
end

