-- ==== Sys2Proof/Machine/FrameCodec.lean ====
section
/-! DEFINITION. The frame builder and the frame parser as pure functions (42_frame_tx.md R181, R183; 43_frame_rx.md
R205; the layout is 30_encoding.md R100). -/

namespace Sys2Proof.Machine

/-- The five-byte header `[ver][type][seq][len_lo][len_hi]` (30_encoding.md R100, R104). -/
def frameHeader (ver type seq : Byte) (len : Nat) : Bytes :=
  [ver, type, seq] ++ leBytes (BitVec.ofNat 16 len)

/-- A raw frame; the CRC covers header and payload and not the sync byte (30_encoding.md R105; conflict C2). -/
def rawFrame (ver type seq : Byte) (payload : Bytes) : Bytes :=
  let body := frameHeader ver type seq payload.length ++ payload
  [Config.sync] ++ body ++ leBytes (crc16 body)

/-- The wire frame of a raw frame: its COBS encoding and one terminator (30_encoding.md R90). -/
def wireFrame (ver type seq : Byte) (payload : Bytes) : Bytes :=
  cobsEnc (rawFrame ver type seq payload) ++ [Config.term]

/-- The payload does not fit the 16-bit `length` field (42_frame_tx.md R181, decision D18). -/
def payloadTooLong (payload : Bytes) : Bool := decide (Config.maxPayload < payload.length)

/-- A frame that passed FRAME.PARSE (43_frame_rx.md R205). -/
structure ParsedFrame where
  ver     : Byte
  type    : Byte
  seq     : Byte
  length  : Half
  payload : Bytes
deriving DecidableEq, Repr, Inhabited

/-- The results of FRAME.PARSE: a frame, the drop of a buffer of fewer than 8 bytes, or a failure with the byte at the
`seq` position (43_frame_rx.md R205, R207). -/
inductive ParseResult where
  | ok (f : ParsedFrame)
  | tooShort
  | fail (cls : Status) (sub : Sub) (seq : Byte)
deriving DecidableEq, Repr, Inhabited

/-- FRAME.PARSE (43_frame_rx.md R205): the four checks in the source's order, the first that fails decides. `ver` is
returned and not tested (30_encoding.md R101). -/
def frameParse (d : Bytes) : ParseResult :=
  let n := d.length
  if n < Config.minFrame then .tooShort
  else
    let s := byteAt d 3
    let len := le16 (byteAt d 4) (byteAt d 5)
    if byteAt d 0 ≠ Config.sync then .fail .formatError .badSync s
    else if n ≠ len.toNat + 8 then .fail .formatError .badLength s
    else if le16 (byteAt d (n - 2)) (byteAt d (n - 1)) ≠ crc16 (slice d 1 (n - 2)) then
      .fail .integrityError .badCrc s
    else .ok { ver := byteAt d 1, type := byteAt d 2, seq := s, length := len,
               payload := slice d 6 (6 + len.toNat) }

end Sys2Proof.Machine
end

