-- ==== Sys2Proof/Syntax.lean ====
section
/-! DEFINITION. The instructions of the block: one constructor per row of spec/opcode_table.json, and the form in
which an agent issues one. -/

namespace Sys2Proof

/-- What a received frame carries besides its command type (30_encoding.md R100): `ver` is not tested on receive
(R101), `length` is the length of the payload (R107). -/
structure Frame where
  ver     : Byte
  seq     : Byte
  payload : Bytes
deriving DecidableEq, Repr, Inhabited

/-- The instructions: nine received command types (30_encoding.md R108), then the 26 operations (R124). -/
inductive Instr where
  | ping (f : Frame)
  | pong (f : Frame)
  | getmap (f : Frame)
  | setmap (f : Frame)
  | save (f : Frame)
  | load (f : Frame)
  | resetdefault (f : Frame)
  | getinfo (f : Frame)
  | error (f : Frame)
  | crcInit
  | crcUpd (b : Byte)
  | crcGet
  | crcBuf (x : Bytes)
  | cobsEnc (x : Bytes)
  | cobsDec (y : Bytes)
  | frameBuild (type seq : Byte) (payload : Bytes)
  | frameEnc (type seq : Byte) (payload : Bytes)
  | send (type : Byte) (payload : Bytes) (silent : Bool)
  | rxByte (b : Byte)
  | rxChunk (x : Bytes)
  | frameParse (d : Bytes)
  | tick (t : Nat)
  | reqPing
  | reqGetmap
  | reqSetmap (save : Bool)
  | reqSave
  | reqLoad (fetch : Bool)
  | reqResetdefault (fetch : Bool)
  | reqGetinfo
  | actEq (a b : Action)
  | cfgEnc
  | cfgDec (p : Bytes)
  | cfgRd (l r c : Nat)
  | cfgWr (l r c : Nat) (a : Action)
  | reset
deriving DecidableEq, Repr, Inhabited

/-- The two ways an agent reaches the block. `request`: an `opsel` byte and its operands (30_encoding.md R124), any
agent. `wire`: the bytes of a wire frame as the transport delivers them (30_encoding.md R125). DESIGN CHOICE: logs 1, 2
and 4. -/
inductive Port where
  | request
  | wire
deriving DecidableEq, Repr, Inhabited

/-- One issued operation: its port and its bytes, delivered whole (20_memory.md R67, R70). -/
structure Issue where
  port  : Port
  bytes : Bytes
deriving DecidableEq, Repr, Inhabited

end Sys2Proof
end

