-- ==== Sys2Proof/Machine/State.lean ====
section
/-! DEFINITION. The state of one instance of the block (10_state.md R20, R40), the model's own input and output fields,
and the reasons a step can stop. -/

namespace Sys2Proof.Machine

/-- The byte memory RXBUF: (index, byte) pairs in the canonical form of `Memory.wf` (Machine/Memory.lean). -/
abbrev Memory := List Host.Cell

/-- A pending request (10_state.md R31): the command type sent and the time at which the entry expires. -/
structure PendEntry where
  cmd      : Byte
  deadline : Nat
deriving DecidableEq, Repr, Inhabited

/-- The events of the block (60_exceptions.md R330). -/
inductive Event where
  | tx (wire : Bytes)
  | notify (cmd seq : Byte) (status : Status) (sub : Sub) (reason : Bytes)
  | configUpdated
deriving DecidableEq, Repr

/-- The result of an operation (30_encoding.md R124); `none` before the first operation, `unit` for an operation with no
result. -/
inductive Result where
  | none
  | unit
  | word (v : Half)
  | bytes (x : Bytes)
  | seq (s : Byte)
  | bit (b : Bool)
  | parsed (r : ParseResult)
  | keymap (m : Keymap)
  | action (a : Action)
  | error (cls : Status) (sub : Sub)
  | refused (why : RefuseReason)
deriving DecidableEq, Repr

/-- The parameters with defaults of 00_scope.md R9 that a rule reads. No operation writes them. -/
structure Params where
  rxBufCap  : Nat
  seqReset  : Byte
  kindMacro : Byte
deriving DecidableEq, Repr

/-- The state (10_state.md R20). `pend` has `none` where the entry's `valid` is 0 (log 10). The last four fields are the
model's own: the operations issued and not yet run, and the outputs of the last operation (logs 1, 5, 6). -/
structure State where
  params          : Params
  defMap          : Keymap
  crcAcc          : Half
  now             : Nat
  rxbuf           : Memory
  rxLen           : Nat
  rxOvf           : Bool
  seqNext         : Byte
  saveAfterWrite  : Bool
  fetchAfterLoad  : Bool
  fetchAfterReset : Bool
  pend            : Vector (Option PendEntry) 256
  work            : Keymap
  inbox           : List Issue
  result          : Result
  events          : List Event
  seqCollision    : Bool
deriving DecidableEq, Repr

/-- Why a step stops with a fault. -/
inductive Fault where
  /-- Raised by RX.BYTE and RX.CHUNK where a terminator makes them read RXBUF at an index that does not exist, that is
  where `rx_len` is above RX_BUF_CAP (20_memory.md R60). No run reaches it (20_memory.md R77). Safe. -/
  | rxbufRange
deriving DecidableEq, Repr

/-- Why a step is refused. The refusals of 60_exceptions.md R328 are results of operations and are not here. -/
inductive Refusal where
  /-- Raised by `exec` for an instruction that has no meaning yet. Safe. -/
  | notModelled (mnemonic : String)
deriving DecidableEq, Repr

/-- The default parameters (00_scope.md R9). -/
def Params.default : Params :=
  { rxBufCap := Config.rxBufCap, seqReset := Config.seqReset, kindMacro := Config.kindMacro }

/-- The state after reset (10_state.md R40, 70_reset_and_hazards.md R360). -/
def State.reset : State :=
  { params := Params.default
    defMap := Config.defaultMap
    crcAcc := Config.crcInit
    now := 0
    rxbuf := []
    rxLen := 0
    rxOvf := false
    seqNext := Config.seqReset
    saveAfterWrite := false
    fetchAfterLoad := false
    fetchAfterReset := false
    pend := Vector.replicate 256 none
    work := Config.defaultMap
    inbox := []
    result := .none
    events := []
    seqCollision := false }

end Sys2Proof.Machine
end

