-- ==== Sys2Proof/Machine/Flags.lean ====
section
/-! DEFINITION. The three chaining flags, the only flags of the block (10_state.md R28): set, read-and-clear, clear
all. -/

namespace Sys2Proof.Machine

/-- The names of the chaining flags (10_state.md R28; conflict C3: there are no others). -/
inductive ChainFlag where
  | saveAfterWrite
  | fetchAfterLoad
  | fetchAfterReset
deriving DecidableEq, Repr

/-- The value of a flag. -/
def State.flag (s : State) : ChainFlag → Bool
  | .saveAfterWrite => s.saveAfterWrite
  | .fetchAfterLoad => s.fetchAfterLoad
  | .fetchAfterReset => s.fetchAfterReset

/-- Writing a flag. -/
def State.setFlag (s : State) (v : Bool) : ChainFlag → State
  | .saveAfterWrite => { s with saveAfterWrite := v }
  | .fetchAfterLoad => { s with fetchAfterLoad := v }
  | .fetchAfterReset => { s with fetchAfterReset := v }

/-- What a REQ operation does to its flag: with its bit 1 it sets it, with 0 it leaves it (44_session.md R257). -/
def State.requestFlag (s : State) (f : ChainFlag) (bit : Bool) : State :=
  if bit then s.setFlag true f else s

/-- What an Error frame does: clear all three (43_frame_rx.md R219). -/
def State.clearFlags (s : State) : State :=
  { s with saveAfterWrite := false, fetchAfterLoad := false, fetchAfterReset := false }

end Sys2Proof.Machine
end

