-- ==== Sys2Proof/Machine/Operands.lean ====
section
/-! DEFINITION. The operand forms of the config unit: a cell named by layer, row and column, its flat index, and the
reserved Fn-key cell (20_memory.md R62; 10_state.md R34, R36). -/

namespace Sys2Proof.Machine

/-- The cell `(l, r, c)` names, by flat index `l*25 + r*5 + c`; an index out of range names no cell (20_memory.md R62). -/
def cellIndex (l r c : Nat) : Option (Fin 50) :=
  if h : l < Config.layers ∧ r < Config.rows ∧ c < Config.cols then
    some ⟨l * 25 + r * 5 + c, by simp only [Config.layers, Config.rows, Config.cols] at h; omega⟩
  else none

/-- The layer of a flat index. -/
def layerOf (i : Fin 50) : Nat := i.val / 25
/-- The row of a flat index. -/
def rowOf (i : Fin 50) : Nat := i.val % 25 / 5
/-- The column of a flat index. -/
def colOf (i : Fin 50) : Nat := i.val % 5

/-- `(r, c) = (4, 2)`: the Fn-key position, in either layer (10_state.md R36). -/
def isFnPosition (r c : Nat) : Bool := r == Config.fnRow && c == Config.fnCol

/-- The cell of a flat index is a Fn-key cell: flat indices 22 and 47 (20_memory.md R62). -/
def isFnCell (i : Fin 50) : Bool := isFnPosition (rowOf i) (colOf i)

/-- The scan order of CFG.ENC: increasing flat index (20_memory.md R62). -/
def allCells : List (Fin 50) := List.finRange 50

end Sys2Proof.Machine
end

