-- ==== Sys2Proof/Machine/KeymapCodec.lean ====
section
/-! DEFINITION. The config binary codec as pure functions of the code of Macro, a keymap and the default keymap
(45_config_codec.md R280 to R300; the formats are 30_encoding.md R115 to R120). -/

namespace Sys2Proof.Machine

/-- STEP.EQ (45_config_codec.md R281). -/
def stepEq (x y : MacroStep) : Bool :=
  x.op == y.op && x.mask == y.mask && decide (x.keys = y.keys) && x.delay == y.delay

/-- The steps of two macros are equal: same count, and STEP.EQ of each pair (45_config_codec.md R281). -/
def stepsEq : List MacroStep → List MacroStep → Bool
  | [], [] => true
  | x :: xs, y :: ys => stepEq x y && stepsEq xs ys
  | [], _ :: _ => false
  | _ :: _, [] => false

/-- ACT.EQ (45_config_codec.md R281): the macro is compared only when the common kind is Macro (R282). -/
def actEq (kindMacro : Byte) (a b : Action) : Bool :=
  a.kind == b.kind && a.mask == b.mask && decide (a.keys = b.keys) &&
    (if a.kind = kindMacro then stepsEq a.steps b.steps else true)

/-- The bytes of one entry (45_config_codec.md R290, R292; 30_encoding.md R118): for a kind other than Macro the
length byte is 0 and no step follows. -/
def entryBytes (kindMacro : Byte) (i : Fin 50) (a : Action) : Bytes :=
  let steps := if a.kind = kindMacro then a.steps else []
  [BitVec.ofNat 8 (layerOf i), BitVec.ofNat 8 (rowOf i), BitVec.ofNat 8 (colOf i), a.kind, a.mask]
    ++ a.keys.toList ++ [BitVec.ofNat 8 steps.length] ++ steps.flatMap stepBytes

/-- The cells an encoding carries, in scan order: not the Fn-key cells, and not ACT.EQ-equal to the default
(45_config_codec.md R290). -/
def diffCells (kindMacro : Byte) (m d : Keymap) : List (Fin 50) :=
  allCells.filter fun i => !isFnCell i && !actEq kindMacro m[i] d[i]

/-- `cfg_enc(m, d)` (45_config_codec.md R290). -/
def cfgEnc (kindMacro : Byte) (m d : Keymap) : Bytes :=
  let cells := diffCells kindMacro m d
  let count : Half := BitVec.ofNat 16 cells.length
  let body := cells.flatMap fun i => entryBytes kindMacro i m[i]
  let out := [Config.cfgVer, BitVec.ofNat 8 Config.rows, BitVec.ofNat 8 Config.cols, BitVec.ofNat 8 Config.layers, 0]
    ++ leBytes count ++ body
  out ++ leBytes (crc16 out)

/-- The macro steps at `pos`, `pos + 10`, … (45_config_codec.md R299). -/
def stepsAt (p : Bytes) : Nat → Nat → List MacroStep
  | _, 0 => []
  | pos, n + 1 => stepAt p pos :: stepsAt p (pos + Config.stepLen) n

/-- One entry (45_config_codec.md R299): the keymap with the entry applied and the next position, or the first failure
in the order of the rule. An entry for the Fn-key cell is applied like any other (decision D22). -/
def cfgEntry (kindMacro : Byte) (p : Bytes) (pos stop : Nat) (m : Keymap) : Checked (Keymap × Nat) :=
  if stop < pos + Config.entryFixedLen then .err .formatError .truncated
  else
    let kind := byteAt p (pos + 3)
    let mlen := (byteAt p (pos + 11)).toNat
    let body := pos + Config.entryFixedLen
    match cellIndex (byteAt p pos).toNat (byteAt p (pos + 1)).toNat (byteAt p (pos + 2)).toNat with
    | none => .err .formatError .badIndex
    | some i =>
      if kind = kindMacro then
        if Config.macroMax < mlen then .err .formatError .macroTooLong
        else if stop < body + Config.stepLen * mlen then .err .formatError .truncated
        else .ok (m.set i.val { kind := kind, mask := byteAt p (pos + 4), keys := keysAt p (pos + 5),
                                steps := stepsAt p body mlen } i.isLt,
                  body + Config.stepLen * mlen)
      else if mlen ≠ 0 then .err .formatError .nonMacroLen
      else .ok (m.set i.val { kind := kind, mask := byteAt p (pos + 4), keys := keysAt p (pos + 5), steps := [] } i.isLt,
                body)

/-- `repeat count times` (45_config_codec.md R295). -/
def cfgEntries (kindMacro : Byte) (p : Bytes) (stop : Nat) : Nat → Nat → Keymap → Checked (Keymap × Nat)
  | 0, pos, m => .ok (m, pos)
  | count + 1, pos, m =>
    match cfgEntry kindMacro p pos stop m with
    | .ok (m', pos') => cfgEntries kindMacro p stop count pos' m'
    | .err cls sub => .err cls sub

/-- `cfg_dec(p, d)` (45_config_codec.md R295): length, header, CRC, entries, exact consumption, in this order. The
`mode` byte is neither tested nor kept (R297, decision D21). -/
def cfgDec (kindMacro : Byte) (p : Bytes) (d : Keymap) : Checked Keymap :=
  let n := p.length
  if n < Config.cfgMinLen then .err .formatError .truncated
  else if byteAt p 0 ≠ Config.cfgVer ∨ byteAt p 1 ≠ BitVec.ofNat 8 Config.rows ∨
      byteAt p 2 ≠ BitVec.ofNat 8 Config.cols ∨ byteAt p 3 ≠ BitVec.ofNat 8 Config.layers then
    .err .formatError .badHeader
  else if le16 (byteAt p (n - 2)) (byteAt p (n - 1)) ≠ crc16 (slice p 0 (n - 2)) then .err .integrityError .badCrc
  else
    match cfgEntries kindMacro p (n - 2) (le16 (byteAt p 5) (byteAt p 6)).toNat Config.cfgHdrLen d with
    | .err cls sub => .err cls sub
    | .ok (m, pos) => if pos ≠ n - 2 then .err .formatError .trailing else .ok m

end Sys2Proof.Machine
end

