-- ==== Sys2Proof/Machine/Memory.lean ====
section
/-! DEFINITION. The byte memory RXBUF (20_memory.md R60): reading, writing and the canonical form. -/

namespace Sys2Proof.Machine

/-- What an index that nothing lists reads as. The spec leaves the contents of RXBUF after reset unspecified and reads
no byte at or above `rx_len` (10_state.md R25). DESIGN CHOICE, unsafe for a claim about such a byte: log 9. -/
def Memory.unlisted : Byte := 0

/-- The byte at an index. -/
def Memory.read : Memory → Nat → Byte
  | [], _ => Memory.unlisted
  | c :: m, a => if a = c.1 then c.2 else Memory.read m a

/-- A write. Writing what an unlisted index reads as leaves the index unlisted. -/
def Memory.write : Memory → Nat → Byte → Memory
  | [], a, b => if b = Memory.unlisted then [] else [(a, b)]
  | c :: m, a, b =>
    if a < c.1 then (if b = Memory.unlisted then c :: m else (a, b) :: c :: m)
    else if a = c.1 then (if b = Memory.unlisted then m else (a, b) :: m)
    else c :: Memory.write m a b

/-- `MemWrite(M, a, n, x)` with `n` the length of `x` (00_scope.md R12). -/
def Memory.writeBytes : Memory → Nat → Bytes → Memory
  | m, _, [] => m
  | m, a, b :: x => Memory.writeBytes (Memory.write m a b) (a + 1) x

/-- `MemRead(M, a, n)` (00_scope.md R12). -/
def Memory.readBytes (m : Memory) (a : Nat) : Nat → Bytes
  | 0 => []
  | n + 1 => Memory.read m a :: Memory.readBytes m (a + 1) n

/-- Every listed index is above `lo`, they rise, and no entry is what an unlisted index reads as. -/
def Memory.risingFrom : Nat → Memory → Bool
  | _, [] => true
  | lo, c :: m => decide (lo ≤ c.1) && decide (c.2 ≠ Memory.unlisted) && Memory.risingFrom (c.1 + 1) m

/-- The canonical form: equal memories are equal lists. -/
def Memory.wf (m : Memory) : Bool := Memory.risingFrom 0 m

end Sys2Proof.Machine
end

