-- ==== Sys2Proof/Machine/Ops.lean ====
section
/-! DEFINITION. The operations the meanings share: the start and the result of an operation, refusing, events, the
pending table, sending a frame, resolving a request, chaining.

The block has no trap entry and no return (60_exceptions.md R334, R335): an error changes nothing but what its class
says, the operation completes, and the next one works. What every reported error shares is `State.resolve`: it removes
the pending entry and emits the one `Notify`. -/

namespace Sys2Proof.Machine

/-- The start of an operation: no event yet, no result yet. -/
def State.start (s : State) : State := { s with result := .unit, events := [], seqCollision := false }

/-- `return v` (00_scope.md R13). -/
def State.finish (s : State) (r : Result) : State := { s with result := r }

/-- `refuse(reason)` (00_scope.md R13): no state change and no event, the result is the refusal. -/
def State.refuse (s : State) (why : RefuseReason) : State := s.start.finish (.refused why)

/-- `emit Ev(args)` (00_scope.md R13). -/
def State.emit (s : State) (e : Event) : State := { s with events := s.events ++ [e] }

/-- `PEND[k]`, none where its `valid` is 0 (10_state.md R31). -/
def State.pendAt (s : State) (k : Byte) : Option PendEntry := s.pend[k.toNat]'k.isLt

/-- Writing `PEND[k]`. -/
def State.setPend (s : State) (k : Byte) (e : Option PendEntry) : State :=
  { s with pend := s.pend.set k.toNat e k.isLt }

/-- SEND without the check of the payload's length (42_frame_tx.md R186): the sequence number is taken and counted on
modulo 256, the wire frame is emitted, and unless silent the request is entered with deadline `now + 5000`. A still
valid entry is overwritten (R189, decision D17); that it was reached is flagged (DESIGN CHOICE: log 6). -/
def State.sendFrame (s : State) (type : Byte) (payload : Bytes) (silent : Bool) : State :=
  let k := s.seqNext
  let sent := State.emit
    { s with seqNext := k + 1, seqCollision := s.seqCollision || (s.pendAt k).isSome }
    (.tx (wireFrame Config.protoVer type k payload))
  if silent then sent else sent.setPend k (some { cmd := type, deadline := s.now + Config.timeoutMs })

/-- SEND as an operation (42_frame_tx.md R186): refused where the payload is too long, else its result is the sequence
number used. `before` is what a REQ operation does first; a refused operation does not do it (00_scope.md R13). -/
def State.sendOp (s : State) (before : State → State) (type : Byte) (payload : Bytes) (silent : Bool) : State :=
  if payloadTooLong payload then s.refuse .payloadTooLong
  else ((before s.start).sendFrame type payload silent).finish (.seq s.seqNext)

/-- Resolve (43_frame_rx.md R208): where the entry is valid, remove it and emit its `Notify`, whose `cmd` is the type of
the request; where it is not, nothing happens. -/
def State.resolve (s : State) (k : Byte) (status : Status) (sub : Sub) (reason : Bytes) : State :=
  match s.pendAt k with
  | none => s
  | some e => (s.setPend k none).emit (.notify e.cmd k status sub reason)

/-- The answer to a request that may be chained (43_frame_rx.md R214, R216, R217): resolve it; if it matched,
read-and-clear the flag, and if the flag was 1 send the next command with an empty payload. -/
def State.resolveAndChain (s : State) (k : Byte) (flag : ChainFlag) (next : Byte) : State :=
  match s.pendAt k with
  | none => s
  | some _ =>
    let resolved := s.resolve k .ok .none []
    let cleared := resolved.setFlag false flag
    if resolved.flag flag then cleared.sendFrame next [] false else cleared

end Sys2Proof.Machine
end

