-- ==== Sys2Proof/Machine/Answers.lean ====
section
/-! DEFINITION. The nine received command types (43_frame_rx.md R209 to R221). Each `receive…` is what a frame of that
type does once it has passed FRAME.PARSE; each `exec…` is that frame as an operation of its own. The answer's type is
not compared with the request's (R221), and an unmatched answer of a request type has no effect (R212). -/

namespace Sys2Proof.Machine

/-- PING (43_frame_rx.md R210): ignored, not answered. -/
def receivePing (_f : Frame) (s : State) : State := s

/-- PONG (43_frame_rx.md R211): ignored, even where its `seq` is pending. -/
def receivePong (_f : Frame) (s : State) : State := s

/-- GETMAP answer (43_frame_rx.md R213): decoded only where it matches; the whole map is replaced, then `Notify`, then
`ConfigUpdated` (decision D38); a decode failure resolves the request and leaves the map. -/
def receiveGetmap (f : Frame) (s : State) : State :=
  match s.pendAt f.seq with
  | none => s
  | some _ =>
    match cfgDec s.params.kindMacro f.payload s.defMap with
    | .ok m => (State.resolve { s with work := m } f.seq .ok .none []).emit .configUpdated
    | .err cls sub => s.resolve f.seq cls sub []

/-- SETMAP answer (43_frame_rx.md R214). -/
def receiveSetmap (f : Frame) (s : State) : State := s.resolveAndChain f.seq .saveAfterWrite Config.typeSave

/-- SAVE answer (43_frame_rx.md R215). -/
def receiveSave (f : Frame) (s : State) : State := s.resolve f.seq .ok .none []

/-- LOAD answer (43_frame_rx.md R216). -/
def receiveLoad (f : Frame) (s : State) : State := s.resolveAndChain f.seq .fetchAfterLoad Config.typeGetmap

/-- RESETDEFAULT answer (43_frame_rx.md R217). -/
def receiveResetdefault (f : Frame) (s : State) : State := s.resolveAndChain f.seq .fetchAfterReset Config.typeGetmap

/-- GETINFO answer (43_frame_rx.md R218): the payload is ignored. -/
def receiveGetinfo (f : Frame) (s : State) : State := s.resolve f.seq .ok .none []

/-- ERROR frame (43_frame_rx.md R219): all flags cleared whether or not `seq` is pending (conflict C4), then the
request, if pending, fails with the payload as reason. -/
def receiveError (f : Frame) (s : State) : State := s.clearFlags.resolve f.seq .deviceError .none f.payload

def execPing (f : Frame) (s : State) : Host.Outcome State Fault Refusal := .next (receivePing f s.start)

def execPong (f : Frame) (s : State) : Host.Outcome State Fault Refusal := .next (receivePong f s.start)

def execGetmap (f : Frame) (s : State) : Host.Outcome State Fault Refusal := .next (receiveGetmap f s.start)

def execSetmap (f : Frame) (s : State) : Host.Outcome State Fault Refusal := .next (receiveSetmap f s.start)

def execSave (f : Frame) (s : State) : Host.Outcome State Fault Refusal := .next (receiveSave f s.start)

def execLoad (f : Frame) (s : State) : Host.Outcome State Fault Refusal := .next (receiveLoad f s.start)

def execResetdefault (f : Frame) (s : State) : Host.Outcome State Fault Refusal :=
  .next (receiveResetdefault f s.start)

def execGetinfo (f : Frame) (s : State) : Host.Outcome State Fault Refusal := .next (receiveGetinfo f s.start)

def execError (f : Frame) (s : State) : Host.Outcome State Fault Refusal := .next (receiveError f s.start)

end Sys2Proof.Machine
end

