-- ==== Sys2Proof/Machine/CobsUnit.lean ====
section
/-! DEFINITION. The COBS codec as operations (41_cobs.md R163, R167). -/

namespace Sys2Proof.Machine

/-- COBS.ENC (41_cobs.md R163). -/
def execCobsEnc (x : Bytes) (s : State) : Host.Outcome State Fault Refusal :=
  .next (s.start.finish (.bytes (cobsEnc x)))

/-- COBS.DEC (41_cobs.md R167): as a host operation it returns the error (R171). -/
def execCobsDec (y : Bytes) (s : State) : Host.Outcome State Fault Refusal :=
  .next (s.start.finish
    (match cobsDec y with
     | .ok x => .bytes x
     | .err cls sub => .error cls sub))

end Sys2Proof.Machine
end

