-- ==== Sys2Proof/Machine/ConfigUnit.lean ====
section
/-! DEFINITION. The config codec and the edit port as operations (45_config_codec.md R281, R290, R295, R302, R303). -/

namespace Sys2Proof.Machine

/-- ACT.EQ (45_config_codec.md R281). -/
def execActEq (a b : Action) (s : State) : Host.Outcome State Fault Refusal :=
  .next (s.start.finish (.bit (actEq s.params.kindMacro a b)))

/-- CFG.ENC (45_config_codec.md R290). -/
def execCfgEnc (s : State) : Host.Outcome State Fault Refusal :=
  .next (s.start.finish (.bytes (cfgEnc s.params.kindMacro s.work s.defMap)))

/-- CFG.DEC as a host operation (45_config_codec.md R295): it returns the keymap or the error; WORK is not written. -/
def execCfgDec (p : Bytes) (s : State) : Host.Outcome State Fault Refusal :=
  .next (s.start.finish
    (match cfgDec s.params.kindMacro p s.defMap with
     | .ok m => .keymap m
     | .err cls sub => .error cls sub))

/-- CFG.RD (45_config_codec.md R302). -/
def execCfgRd (l r c : Nat) (s : State) : Host.Outcome State Fault Refusal :=
  .next
    (match cellIndex l r c with
     | none => s.refuse .badIndex
     | some i => s.start.finish (.action s.work[i]))

/-- CFG.WR (45_config_codec.md R303): three refusals in the rule's order, else the action is stored as given. -/
def execCfgWr (l r c : Nat) (a : Action) (s : State) : Host.Outcome State Fault Refusal :=
  .next
    (match cellIndex l r c with
     | none => s.refuse .badIndex
     | some i =>
       if isFnPosition r c then s.refuse .fnKeyReserved
       else if Config.macroMax < a.steps.length then s.refuse .macroTooLong
       else { s.start with work := s.work.set i.val a i.isLt })

end Sys2Proof.Machine
end

