-- ==== Sys2Proof/Machine/CrcUnit.lean ====
section
/-! DEFINITION. The CRC port (40_crc16.md R143 to R146). -/

namespace Sys2Proof.Machine

/-- CRC.INIT (40_crc16.md R143). -/
def execCrcInit (s : State) : Host.Outcome State Fault Refusal :=
  .next { s.start with crcAcc := Config.crcInit }

/-- CRC.UPD (40_crc16.md R144). -/
def execCrcUpd (b : Byte) (s : State) : Host.Outcome State Fault Refusal :=
  .next { s.start with crcAcc := crcStep s.crcAcc b }

/-- CRC.GET (40_crc16.md R145): the register itself, no final XOR. -/
def execCrcGet (s : State) : Host.Outcome State Fault Refusal :=
  .next (s.start.finish (.word s.crcAcc))

/-- CRC.BUF (40_crc16.md R146): `crc_acc` is neither read nor written (decision D30). -/
def execCrcBuf (x : Bytes) (s : State) : Host.Outcome State Fault Refusal :=
  .next (s.start.finish (.word (crc16 x)))

end Sys2Proof.Machine
end

