-- ==== Sys2Proof/Machine/FrameRx.lean ====
section
/-! DEFINITION. The incoming path (43_frame_rx.md R201, R203, R205, R209). -/

namespace Sys2Proof.Machine

/-- Dispatch (43_frame_rx.md R209), on the received `type` byte alone; a reserved type has no effect (R220). -/
def dispatchFrame (type : Byte) (f : Frame) (s : State) : State :=
  if type = Config.typePing then receivePing f s
  else if type = Config.typePong then receivePong f s
  else if type = Config.typeGetmap then receiveGetmap f s
  else if type = Config.typeSetmap then receiveSetmap f s
  else if type = Config.typeSave then receiveSave f s
  else if type = Config.typeLoad then receiveLoad f s
  else if type = Config.typeResetdefault then receiveResetdefault f s
  else if type = Config.typeGetinfo then receiveGetinfo f s
  else if type = Config.typeError then receiveError f s
  else s

/-- RX.BYTE of a byte that is not the terminator (43_frame_rx.md R201): kept while there is room, else lost and the
frame condemned (R204). -/
def State.accumulate (s : State) (b : Byte) : State :=
  if s.rxLen < s.params.rxBufCap then
    { s with rxbuf := s.rxbuf.write s.rxLen b, rxLen := s.rxLen + 1 }
  else { s with rxOvf := true }

/-- The accumulator is reset at every terminator, whatever the outcome (43_frame_rx.md R202). -/
def State.resetAccumulator (s : State) : State := { s with rxLen := 0, rxOvf := false }

/-- What the bytes of one accumulated frame do once the accumulator is reset (43_frame_rx.md R201): a COBS failure and a
buffer under 8 bytes are dropped, a failed check resolves the request named by the byte at the `seq` position (R207),
a frame that passes is dispatched. -/
def State.receiveFrame (s : State) (y : Bytes) : State :=
  match cobsDec y with
  | .err _ _ => s
  | .ok d =>
    match frameParse d with
    | .tooShort => s
    | .fail cls sub k => s.resolve k cls sub []
    | .ok f => dispatchFrame f.type { ver := f.ver, seq := f.seq, payload := f.payload } s

/-- RX.BYTE of the terminator 0x00 (43_frame_rx.md R201); an overflowed frame is dropped (R204). -/
def State.closeFrame (s : State) : State :=
  if s.rxOvf then s.resetAccumulator
  else s.resetAccumulator.receiveFrame (s.rxbuf.readBytes 0 s.rxLen)

/-- RX.BYTE (43_frame_rx.md R201). -/
def State.rxByte (s : State) (b : Byte) : State :=
  if b = Config.term then s.closeFrame else s.accumulate b

/-- RX.BYTE of each byte in order (43_frame_rx.md R203). -/
def State.rxBytes (s : State) (x : Bytes) : State := x.foldl State.rxByte s

/-- The bytes would have RXBUF read at an index that does not exist: `rx_len` is above the capacity and a terminator is
among them. `rx_len` cannot pass the capacity (20_memory.md R77), so no run comes here: log 12. -/
def State.readsOutside (s : State) (x : Bytes) : Bool :=
  decide (s.params.rxBufCap < s.rxLen) && x.contains Config.term

/-- RX.BYTE (43_frame_rx.md R201). -/
def execRxByte (b : Byte) (s : State) : Host.Outcome State Fault Refusal :=
  if s.readsOutside [b] then .fault .rxbufRange else .next (s.start.rxByte b)

/-- RX.CHUNK (43_frame_rx.md R203). -/
def execRxChunk (x : Bytes) (s : State) : Host.Outcome State Fault Refusal :=
  if s.readsOutside x then .fault .rxbufRange else .next (s.start.rxBytes x)

/-- FRAME.PARSE as a host operation returns its result (43_frame_rx.md R205). -/
def execFrameParse (d : Bytes) (s : State) : Host.Outcome State Fault Refusal :=
  .next (s.start.finish (.parsed (frameParse d)))

end Sys2Proof.Machine
end

