-- ==== Sys2Proof/Machine/FrameTx.lean ====
section
/-! DEFINITION. The outgoing path (42_frame_tx.md R181, R183, R186). -/

namespace Sys2Proof.Machine

/-- FRAME.BUILD (42_frame_tx.md R181). -/
def execFrameBuild (type seq : Byte) (payload : Bytes) (s : State) : Host.Outcome State Fault Refusal :=
  .next (if payloadTooLong payload then s.refuse .payloadTooLong
         else s.start.finish (.bytes (rawFrame Config.protoVer type seq payload)))

/-- FRAME.ENC (42_frame_tx.md R183). -/
def execFrameEnc (type seq : Byte) (payload : Bytes) (s : State) : Host.Outcome State Fault Refusal :=
  .next (if payloadTooLong payload then s.refuse .payloadTooLong
         else s.start.finish (.bytes (wireFrame Config.protoVer type seq payload)))

/-- SEND (42_frame_tx.md R186). -/
def execSend (type : Byte) (payload : Bytes) (silent : Bool) (s : State) : Host.Outcome State Fault Refusal :=
  .next (s.sendOp id type payload silent)

end Sys2Proof.Machine
end

