-- ==== Sys2Proof/Machine/Session.lean ====
section
/-! DEFINITION. The session: TICK and the REQ operations (44_session.md R250 to R256, R262). -/

namespace Sys2Proof.Machine

/-- The 256 sequence numbers, ascending (44_session.md R262, R266). -/
def allSeqs : List Byte := (List.range 256).map (BitVec.ofNat 8)

/-- The entry has expired at time `t` (44_session.md R262). -/
def PendEntry.expired (t : Nat) (e : PendEntry) : Bool := decide (e.deadline ≤ t)

/-- What TICK leaves of an entry (44_session.md R262). -/
def keepUnexpired (t : Nat) : Option PendEntry → Option PendEntry
  | none => none
  | some e => if e.expired t then none else some e

/-- The timeouts TICK reports, one for each expired entry (44_session.md R262). -/
def State.timeouts (s : State) (t : Nat) : List Event :=
  allSeqs.filterMap fun k =>
    match s.pendAt k with
    | none => none
    | some e => if e.expired t then some (.notify e.cmd k .timeoutError .none []) else none

/-- TICK (44_session.md R262): each iteration of the rule's loop reads and clears its own entry only. -/
def execTick (t : Nat) (s : State) : Host.Outcome State Fault Refusal :=
  .next (if t < s.now then s.refuse .timeBackwards
         else { s.start with now := t
                             pend := ⟨⟨s.pend.toList.map (keepUnexpired t)⟩, by simp⟩
                             events := s.timeouts t })

/-- REQ.PING (44_session.md R250). -/
def execReqPing (s : State) : Host.Outcome State Fault Refusal :=
  .next (s.sendOp id Config.typePing [] true)

/-- REQ.GETMAP (44_session.md R251). -/
def execReqGetmap (s : State) : Host.Outcome State Fault Refusal :=
  .next (s.sendOp id Config.typeGetmap [] false)

/-- REQ.SETMAP (44_session.md R252): the payload is the diff of WORK against DEF at this moment. -/
def execReqSetmap (save : Bool) (s : State) : Host.Outcome State Fault Refusal :=
  .next (s.sendOp (fun s => s.requestFlag .saveAfterWrite save) Config.typeSetmap
    (cfgEnc s.params.kindMacro s.work s.defMap) false)

/-- REQ.SAVE (44_session.md R253). -/
def execReqSave (s : State) : Host.Outcome State Fault Refusal :=
  .next (s.sendOp id Config.typeSave [] false)

/-- REQ.LOAD (44_session.md R254). -/
def execReqLoad (fetch : Bool) (s : State) : Host.Outcome State Fault Refusal :=
  .next (s.sendOp (fun s => s.requestFlag .fetchAfterLoad fetch) Config.typeLoad [] false)

/-- REQ.RESETDEFAULT (44_session.md R255). -/
def execReqResetdefault (fetch : Bool) (s : State) : Host.Outcome State Fault Refusal :=
  .next (s.sendOp (fun s => s.requestFlag .fetchAfterReset fetch) Config.typeResetdefault [] false)

/-- REQ.GETINFO (44_session.md R256). -/
def execReqGetinfo (s : State) : Host.Outcome State Fault Refusal :=
  .next (s.sendOp id Config.typeGetinfo [] false)

end Sys2Proof.Machine
end

