-- ==== Sys2Proof/Machine/System.lean ====
section
/-! DEFINITION. RESET (70_reset_and_hazards.md R360). -/

namespace Sys2Proof.Machine

/-- RESET (70_reset_and_hazards.md R360): as at power-on, with no event. DEF and the parameters are unchanged; the
contents of RXBUF, unspecified and unobservable after reset, are left as they are (log 9); operations already issued
stay issued (log 1). -/
def execReset (s : State) : Host.Outcome State Fault Refusal :=
  .next { s.start with
    crcAcc := Config.crcInit
    now := 0
    rxLen := 0
    rxOvf := false
    seqNext := s.params.seqReset
    saveAfterWrite := false
    fetchAfterLoad := false
    fetchAfterReset := false
    pend := Vector.replicate 256 none
    work := s.defMap }

end Sys2Proof.Machine
end

