-- ==== Sys2Proof/Machine/Dispatch.lean ====
section
/-! DEFINITION. One arm per instruction. -/

namespace Sys2Proof.Machine

def exec (i : Instr) (s : State) : Host.Outcome State Fault Refusal :=
  match i with
  | .ping f => Sys2Proof.Machine.execPing f s
  | .pong f => Sys2Proof.Machine.execPong f s
  | .getmap f => Sys2Proof.Machine.execGetmap f s
  | .setmap f => Sys2Proof.Machine.execSetmap f s
  | .save f => Sys2Proof.Machine.execSave f s
  | .load f => Sys2Proof.Machine.execLoad f s
  | .resetdefault f => Sys2Proof.Machine.execResetdefault f s
  | .getinfo f => Sys2Proof.Machine.execGetinfo f s
  | .error f => Sys2Proof.Machine.execError f s
  | .crcInit => Sys2Proof.Machine.execCrcInit s
  | .crcUpd b => Sys2Proof.Machine.execCrcUpd b s
  | .crcGet => Sys2Proof.Machine.execCrcGet s
  | .crcBuf x => Sys2Proof.Machine.execCrcBuf x s
  | .cobsEnc x => Sys2Proof.Machine.execCobsEnc x s
  | .cobsDec y => Sys2Proof.Machine.execCobsDec y s
  | .frameBuild type seq payload => Sys2Proof.Machine.execFrameBuild type seq payload s
  | .frameEnc type seq payload => Sys2Proof.Machine.execFrameEnc type seq payload s
  | .send type payload silent => Sys2Proof.Machine.execSend type payload silent s
  | .rxByte b => Sys2Proof.Machine.execRxByte b s
  | .rxChunk x => Sys2Proof.Machine.execRxChunk x s
  | .frameParse d => Sys2Proof.Machine.execFrameParse d s
  | .tick t => Sys2Proof.Machine.execTick t s
  | .reqPing => Sys2Proof.Machine.execReqPing s
  | .reqGetmap => Sys2Proof.Machine.execReqGetmap s
  | .reqSetmap save => Sys2Proof.Machine.execReqSetmap save s
  | .reqSave => Sys2Proof.Machine.execReqSave s
  | .reqLoad fetch => Sys2Proof.Machine.execReqLoad fetch s
  | .reqResetdefault fetch => Sys2Proof.Machine.execReqResetdefault fetch s
  | .reqGetinfo => Sys2Proof.Machine.execReqGetinfo s
  | .actEq a b => Sys2Proof.Machine.execActEq a b s
  | .cfgEnc => Sys2Proof.Machine.execCfgEnc s
  | .cfgDec p => Sys2Proof.Machine.execCfgDec p s
  | .cfgRd l r c => Sys2Proof.Machine.execCfgRd l r c s
  | .cfgWr l r c a => Sys2Proof.Machine.execCfgWr l r c a s
  | .reset => Sys2Proof.Machine.execReset s

end Sys2Proof.Machine
end

