-- ==== Sys2Proof/WellFormed.lean ====
section
/-! DEFINITION. Which instructions an encoding exists for. The one bound is that of the 16-bit `length` field of a
frame (30_encoding.md R104); every other operand may have any value of its type, the refusals of
60_exceptions.md R328 being results of the operations. -/

namespace Sys2Proof

/-- The payload's byte count fits the 16-bit `length` field (30_encoding.md R104). -/
def Frame.wellFormed (f : Frame) : Bool := decide (f.payload.length ≤ Config.maxPayload)

/-- The instruction has an encoding. -/
def Instr.wellFormed : Instr → Bool
  | .ping f => f.wellFormed
  | .pong f => f.wellFormed
  | .getmap f => f.wellFormed
  | .setmap f => f.wellFormed
  | .save f => f.wellFormed
  | .load f => f.wellFormed
  | .resetdefault f => f.wellFormed
  | .getinfo f => f.wellFormed
  | .error f => f.wellFormed
  | .crcInit => true
  | .crcUpd _ => true
  | .crcGet => true
  | .crcBuf _ => true
  | .cobsEnc _ => true
  | .cobsDec _ => true
  | .frameBuild _ _ _ => true
  | .frameEnc _ _ _ => true
  | .send _ _ _ => true
  | .rxByte _ => true
  | .rxChunk _ => true
  | .frameParse _ => true
  | .tick _ => true
  | .reqPing => true
  | .reqGetmap => true
  | .reqSetmap _ => true
  | .reqSave => true
  | .reqLoad _ => true
  | .reqResetdefault _ => true
  | .reqGetinfo => true
  | .actEq _ _ => true
  | .cfgEnc => true
  | .cfgDec _ => true
  | .cfgRd _ _ _ => true
  | .cfgWr _ _ _ _ => true
  | .reset => true

end Sys2Proof
end

