-- ==== Sys2Proof/Decode.lean ====
section
/-! DEFINITION. From the bytes of an issued operation to the instruction, and back. A received frame is selected by its
`type` byte (30_encoding.md R108, 43_frame_rx.md R209), an operation by its `opsel` byte (30_encoding.md R124). The spec
encodes no operand of an operation; the operand bytes are the model's own (DESIGN CHOICE: log 2). -/

namespace Sys2Proof

open Sys2Proof.Machine

/-- Why a decoder gives no instruction. -/
inductive DecodeError where
  | empty
  | unassignedOpsel
  | badOperands
  | unterminated
  | severalFrames
  | framing (sub : Sub)
  | tooShort
  | invalidFrame (cls : Status) (sub : Sub)
  | reservedType (type : Byte)
deriving DecidableEq, Repr

namespace Opsel

def crcInit : Byte := 0x00
def crcUpd : Byte := 0x01
def crcGet : Byte := 0x02
def crcBuf : Byte := 0x03
def cobsEnc : Byte := 0x10
def cobsDec : Byte := 0x11
def frameBuild : Byte := 0x20
def frameEnc : Byte := 0x21
def send : Byte := 0x22
def rxByte : Byte := 0x30
def rxChunk : Byte := 0x31
def frameParse : Byte := 0x32
def tick : Byte := 0x40
def reqPing : Byte := 0x41
def reqGetmap : Byte := 0x42
def reqSetmap : Byte := 0x43
def reqSave : Byte := 0x44
def reqLoad : Byte := 0x45
def reqResetdefault : Byte := 0x46
def reqGetinfo : Byte := 0x47
def actEq : Byte := 0x50
def cfgEnc : Byte := 0x51
def cfgDec : Byte := 0x52
def cfgRd : Byte := 0x53
def cfgWr : Byte := 0x54
def reset : Byte := 0x70

end Opsel

/-! Operands of the request port (log 2). A byte stands for itself; a bit is a byte 0 or 1; a byte sequence is each of
its bytes behind a 0x01, then a 0x00; a natural number is the sequence of its base-256 digits, lowest first; the macro
of an action is each 10-byte step behind a 0x01, then a 0x00. So zero bytes are the zero operand of every form. -/

/-- What is left of the operand bytes, with the operand read, if there is one. -/
abbrev Read (α : Type) := Option (α × Bytes)

def readByte : Bytes → Read Byte
  | [] => none
  | b :: s => some (b, s)

def readBit : Bytes → Read Bool
  | [] => none
  | b :: s => if b = 0 then some (false, s) else if b = 1 then some (true, s) else none

def readBytes : Bytes → Read Bytes
  | [] => none
  | [k] => if k = 0 then some ([], []) else none
  | k :: b :: s =>
    if k = 0 then some ([], b :: s)
    else if k = 1 then
      match readBytes s with
      | some (x, s') => some (b :: x, s')
      | none => none
    else none

/-- The number whose base-256 digits, lowest first, are `x`. -/
def natOfDigits : Bytes → Nat
  | [] => 0
  | b :: x => b.toNat + 256 * natOfDigits x

def readNat (s : Bytes) : Read Nat :=
  match readBytes s with
  | some (x, s') => some (natOfDigits x, s')
  | none => none

/-- The steps of an action's macro; `fuel` bounds their number. -/
def readSteps : Nat → Bytes → Read (List MacroStep)
  | _, [] => none
  | 0, _ :: _ => none
  | fuel + 1, k :: s =>
    if k = 0 then some ([], s)
    else if k = 1 ∧ Config.stepLen ≤ s.length then
      match readSteps fuel (s.drop Config.stepLen) with
      | some (xs, s') => some (stepAt s 0 :: xs, s')
      | none => none
    else none

def readAction (s : Bytes) : Read Action :=
  if s.length < 8 then none
  else
    match readSteps (s.length - 8) (s.drop 8) with
    | some (xs, s') => some ({ kind := byteAt s 0, mask := byteAt s 1, keys := keysAt s 2, steps := xs }, s')
    | none => none

/-- One operand. -/
def op1 {α : Type} (r : Bytes → Read α) (mk : α → Instr) (s : Bytes) : Read Instr :=
  match r s with
  | some (a, s') => some (mk a, s')
  | none => none

/-- The first of several operands. -/
def opThen {α : Type} (r : Bytes → Read α) (k : α → Bytes → Read Instr) (s : Bytes) : Read Instr :=
  match r s with
  | some (a, s') => k a s'
  | none => none

/-- The operands of the operation a selector names, in the order of 30_encoding.md R124; no reader for the 230
selectors that name none. -/
def operandReader (sel : Byte) : Option (Bytes → Read Instr) :=
  if sel = Opsel.crcInit then some fun s => some (.crcInit, s)
  else if sel = Opsel.crcUpd then some (op1 readByte .crcUpd)
  else if sel = Opsel.crcGet then some fun s => some (.crcGet, s)
  else if sel = Opsel.crcBuf then some (op1 readBytes .crcBuf)
  else if sel = Opsel.cobsEnc then some (op1 readBytes .cobsEnc)
  else if sel = Opsel.cobsDec then some (op1 readBytes .cobsDec)
  else if sel = Opsel.frameBuild then
    some (opThen readByte fun ty => opThen readByte fun k => op1 readBytes (.frameBuild ty k))
  else if sel = Opsel.frameEnc then
    some (opThen readByte fun ty => opThen readByte fun k => op1 readBytes (.frameEnc ty k))
  else if sel = Opsel.send then
    some (opThen readByte fun ty => opThen readBytes fun x => op1 readBit (.send ty x))
  else if sel = Opsel.rxByte then some (op1 readByte .rxByte)
  else if sel = Opsel.rxChunk then some (op1 readBytes .rxChunk)
  else if sel = Opsel.frameParse then some (op1 readBytes .frameParse)
  else if sel = Opsel.tick then some (op1 readNat .tick)
  else if sel = Opsel.reqPing then some fun s => some (.reqPing, s)
  else if sel = Opsel.reqGetmap then some fun s => some (.reqGetmap, s)
  else if sel = Opsel.reqSetmap then some (op1 readBit .reqSetmap)
  else if sel = Opsel.reqSave then some fun s => some (.reqSave, s)
  else if sel = Opsel.reqLoad then some (op1 readBit .reqLoad)
  else if sel = Opsel.reqResetdefault then some (op1 readBit .reqResetdefault)
  else if sel = Opsel.reqGetinfo then some fun s => some (.reqGetinfo, s)
  else if sel = Opsel.actEq then some (opThen readAction fun a => op1 readAction (.actEq a))
  else if sel = Opsel.cfgEnc then some fun s => some (.cfgEnc, s)
  else if sel = Opsel.cfgDec then some (op1 readBytes .cfgDec)
  else if sel = Opsel.cfgRd then
    some (opThen readNat fun l => opThen readNat fun r => op1 readNat (.cfgRd l r))
  else if sel = Opsel.cfgWr then
    some (opThen readNat fun l => opThen readNat fun r => opThen readNat fun c => op1 readAction (.cfgWr l r c))
  else if sel = Opsel.reset then some fun s => some (.reset, s)
  else none

/-- The bytes behind the operands are padding and must be zero. -/
def isPadding (s : Bytes) : Bool := s.all (· == 0)

/-- An operation of the request port: its selector (30_encoding.md R124), then its operands. -/
def decodeRequest : Bytes → Except DecodeError Instr
  | [] => .error .empty
  | sel :: s =>
    match operandReader sel with
    | none => .error .unassignedOpsel
    | some r =>
      match r s with
      | some (i, s') => if isPadding s' then .ok i else .error .badOperands
      | none => .error .badOperands

/-- The received command type of a `type` byte; none for the 247 reserved values (30_encoding.md R108, R109). -/
def frameInstr (type : Byte) (f : Frame) : Option Instr :=
  if type = Config.typePing then some (.ping f)
  else if type = Config.typePong then some (.pong f)
  else if type = Config.typeGetmap then some (.getmap f)
  else if type = Config.typeSetmap then some (.setmap f)
  else if type = Config.typeSave then some (.save f)
  else if type = Config.typeLoad then some (.load f)
  else if type = Config.typeResetdefault then some (.resetdefault f)
  else if type = Config.typeGetinfo then some (.getinfo f)
  else if type = Config.typeError then some (.error f)
  else none

/-- A received frame: exactly one terminator, at the end (30_encoding.md R90), COBS decoding (41_cobs.md R167), the
checks of FRAME.PARSE (43_frame_rx.md R205), then the `type` byte. -/
def decodeWire (w : Bytes) : Except DecodeError Instr :=
  if w.getLast? ≠ some Config.term then .error .unterminated
  else if w.dropLast.contains Config.term then .error .severalFrames
  else
    match cobsDec w.dropLast with
    | .err _ sub => .error (.framing sub)
    | .ok d =>
      match frameParse d with
      | .tooShort => .error .tooShort
      | .fail cls sub _ => .error (.invalidFrame cls sub)
      | .ok f =>
        match frameInstr f.type { ver := f.ver, seq := f.seq, payload := f.payload } with
        | some i => .ok i
        | none => .error (.reservedType f.type)

/-- The instruction of an issued operation. -/
def decode (q : Issue) : Except DecodeError Instr :=
  match q.port with
  | .request => decodeRequest q.bytes
  | .wire => decodeWire q.bytes

/-! The encoder. -/

def writeBit (b : Bool) : Bytes := [if b then 1 else 0]

def writeBytes : Bytes → Bytes
  | [] => [0]
  | b :: x => 1 :: b :: writeBytes x

/-- The base-256 digits of a number, lowest first; `fuel` bounds their number. -/
def natDigits : Nat → Nat → Bytes
  | 0, _ => []
  | fuel + 1, n => if n = 0 then [] else BitVec.ofNat 8 (n % 256) :: natDigits fuel (n / 256)

def writeNat (n : Nat) : Bytes := writeBytes (natDigits n n)

def writeSteps : List MacroStep → Bytes
  | [] => [0]
  | x :: xs => 1 :: (stepBytes x ++ writeSteps xs)

def writeAction (a : Action) : Bytes := [a.kind, a.mask] ++ a.keys.toList ++ writeSteps a.steps

/-- An operation on the request port. -/
def request (sel : Byte) (operands : Bytes) : Issue := { port := .request, bytes := sel :: operands }

/-- A received frame on the wire port (30_encoding.md R90, R100). -/
def received (type : Byte) (f : Frame) : Issue := { port := .wire, bytes := wireFrame f.ver type f.seq f.payload }

/-- The encoding of an instruction (30_encoding.md R90, R100, R108, R124). -/
def encode : Instr → Issue
  | .ping f => received Config.typePing f
  | .pong f => received Config.typePong f
  | .getmap f => received Config.typeGetmap f
  | .setmap f => received Config.typeSetmap f
  | .save f => received Config.typeSave f
  | .load f => received Config.typeLoad f
  | .resetdefault f => received Config.typeResetdefault f
  | .getinfo f => received Config.typeGetinfo f
  | .error f => received Config.typeError f
  | .crcInit => request Opsel.crcInit []
  | .crcUpd b => request Opsel.crcUpd [b]
  | .crcGet => request Opsel.crcGet []
  | .crcBuf x => request Opsel.crcBuf (writeBytes x)
  | .cobsEnc x => request Opsel.cobsEnc (writeBytes x)
  | .cobsDec y => request Opsel.cobsDec (writeBytes y)
  | .frameBuild type seq payload => request Opsel.frameBuild ([type, seq] ++ writeBytes payload)
  | .frameEnc type seq payload => request Opsel.frameEnc ([type, seq] ++ writeBytes payload)
  | .send type payload silent => request Opsel.send ([type] ++ writeBytes payload ++ writeBit silent)
  | .rxByte b => request Opsel.rxByte [b]
  | .rxChunk x => request Opsel.rxChunk (writeBytes x)
  | .frameParse d => request Opsel.frameParse (writeBytes d)
  | .tick t => request Opsel.tick (writeNat t)
  | .reqPing => request Opsel.reqPing []
  | .reqGetmap => request Opsel.reqGetmap []
  | .reqSetmap save => request Opsel.reqSetmap (writeBit save)
  | .reqSave => request Opsel.reqSave []
  | .reqLoad fetch => request Opsel.reqLoad (writeBit fetch)
  | .reqResetdefault fetch => request Opsel.reqResetdefault (writeBit fetch)
  | .reqGetinfo => request Opsel.reqGetinfo []
  | .actEq a b => request Opsel.actEq (writeAction a ++ writeAction b)
  | .cfgEnc => request Opsel.cfgEnc []
  | .cfgDec p => request Opsel.cfgDec (writeBytes p)
  | .cfgRd l r c => request Opsel.cfgRd (writeNat l ++ writeNat r ++ writeNat c)
  | .cfgWr l r c a => request Opsel.cfgWr (writeNat l ++ writeNat r ++ writeNat c ++ writeAction a)
  | .reset => request Opsel.reset []

/-! The words of spec/opcode_table.json. -/

/-- Zero operands for the longest form: two actions with no step are 18 bytes. -/
def zeroOperands : Bytes := List.replicate 18 0

/-- The issued operation of a table word: 8 bits are a selector with zero operands; 40 bits are the header
`ver<<32 | type<<24 | seq<<16 | len_lo<<8 | len_hi` of 30_encoding.md R108 with a payload of zeros of that length. -/
def issueOfTableWord (nbits w : Nat) : Option Issue :=
  if nbits = 8 then some (request (BitVec.ofNat 8 w) zeroOperands)
  else if nbits = 40 then
    let h := BitVec.ofNat 40 w
    let len := le16 (h.extractLsb' 8 8) (h.extractLsb' 0 8)
    some (received (h.extractLsb' 24 8)
      { ver := h.extractLsb' 32 8, seq := h.extractLsb' 16 8, payload := List.replicate len.toNat 0 })
  else none

/-- The instruction the decoder reads from a word of the opcode table. -/
def decodeTableWord (nbits w : Nat) : Option Instr :=
  match issueOfTableWord nbits w with
  | none => none
  | some q =>
    match decode q with
    | .ok i => some i
    | .error _ => none

end Sys2Proof
end

