-- ==== Sys2Proof/Machine/Fetch.lean ====
section
/-! DEFINITION. Taking the next issued operation. The block fetches nothing itself (10_state.md R22); the order of
operations is the order in which the agents issue them (00_scope.md R17), kept in `State.inbox` (log 1). -/

namespace Sys2Proof.Machine

/-- What a step has to do. -/
inductive Fetched where
  /-- No operation is issued: the block stays idle (70_reset_and_hazards.md R361). -/
  | idle
  /-- Run an instruction on a state. -/
  | run (i : Instr) (s : State)
  /-- The issued bytes name no operation: refused (30_encoding.md R124). -/
  | reject (why : RefuseReason) (s : State)
deriving DecidableEq, Repr

/-- The refusal for bytes that are no operation (30_encoding.md R124, 60_exceptions.md R328; log 3). -/
def refusalOf : DecodeError → RefuseReason
  | .unassignedOpsel => .unassignedOpsel
  | _ => .badOperands

/-- The bytes of a frame before its terminator fit the accumulator, which is empty: a wire frame then passes through
RXBUF undisturbed (43_frame_rx.md R201). -/
def State.framePasses (s : State) (w : Bytes) : Bool :=
  s.rxLen == 0 && !s.rxOvf && decide (w.length ≤ s.params.rxBufCap + 1)

/-- The state in which the frame `w` has passed through RXBUF and its terminator has reset the accumulator. -/
def State.latchFrame (s : State) (w : Bytes) : State :=
  State.resetAccumulator { s with rxbuf := s.rxbuf.writeBytes 0 w.dropLast }

/-- One issued operation. The bytes of the wire port are RX.CHUNK of those bytes (30_encoding.md R125); where they are
exactly one valid frame of a command type and meet an empty accumulator, the frame's own instruction runs (log 4). -/
def fetchIssue (q : Issue) (s : State) : Fetched :=
  match q.port with
  | .request =>
    match decode q with
    | .ok i => .run i s
    | .error e => .reject (refusalOf e) s
  | .wire =>
    match decode q with
    | .ok i => if s.framePasses q.bytes then .run i (s.latchFrame q.bytes) else .run (.rxChunk q.bytes) s
    | .error _ => .run (.rxChunk q.bytes) s

/-- The oldest issued operation, taken out of the queue. -/
def State.fetch (s : State) : Fetched :=
  match s.inbox with
  | [] => .idle
  | q :: rest => fetchIssue q { s with inbox := rest }

/-- An agent issues an operation that runs next; one on the wire port meets an empty accumulator. -/
def State.present (s : State) (q : Issue) : State :=
  match q.port with
  | .request => { s with inbox := q :: s.inbox }
  | .wire => State.resetAccumulator { s with inbox := q :: s.inbox }

end Sys2Proof.Machine
end

