-- ==== Sys2Proof/Machine/Step.lean ====
section
/-! DEFINITION. One step: the oldest issued operation runs whole (20_memory.md R70). -/

namespace Sys2Proof.Machine

/-- One step of the block. -/
def step (s : State) : Host.Outcome State Fault Refusal :=
  match s.fetch with
  | .idle => .next s
  | .run i s' => exec i s'
  | .reject why s' => .next (s'.refuse why)

/-- The state in which an agent has issued the operation of an opcode-table word, so that the next step runs it. -/
def State.withFetchWord (s : State) (nbits w : Nat) : State :=
  match issueOfTableWord nbits w with
  | none => s
  | some q => s.present q

end Sys2Proof.Machine
end

