-- ==== Sys2Proof/Safety.lean ====
section
/-! DEFINITION. What a good state, a safe step and a run of operations are, and the forms of the spec that the statements
compare the machine with. -/

namespace Sys2Proof.Machine

/-- Every stored action has at most 16 macro steps (10_state.md R37). -/
def keymapValid (m : Keymap) : Prop := ∀ i : Fin 50, m[i].steps.length ≤ Config.macroMax

/-- The invariants of the state. Every step keeps them, so the block can always go on (60_exceptions.md R335, R336). -/
structure State.Inv (s : State) : Prop where
  /-- RXBUF is in its canonical form. -/
  rxbuf_wf : s.rxbuf.wf = true
  /-- RXBUF has RX_BUF_CAP bytes (20_memory.md R60). -/
  rxbuf_inside : ∀ c ∈ s.rxbuf, c.1 < s.params.rxBufCap
  /-- `rx_len` is 0..RX_BUF_CAP (10_state.md R25, 20_memory.md R77). -/
  rxLen_le : s.rxLen ≤ s.params.rxBufCap
  /-- `rx_ovf` is set only while the accumulator is full (10_state.md R25). -/
  rxOvf_full : s.rxOvf = true → s.rxLen = s.params.rxBufCap
  /-- The terminator is never stored (10_state.md R25, 41_cobs.md R168). -/
  rxbuf_no_term : ∀ a < s.rxLen, s.rxbuf.read a ≠ Config.term
  /-- A valid entry's deadline is later than `now` and at most 5000 ms away (44_session.md R244, R267). -/
  deadlines : ∀ (k : Byte) (e : PendEntry), s.pendAt k = some e →
    s.now < e.deadline ∧ e.deadline ≤ s.now + Config.timeoutMs
  /-- The stored keymaps are valid (10_state.md R37). -/
  work_valid : keymapValid s.work
  defMap_valid : keymapValid s.defMap

/-- The step was no fault of the host program: it sent nothing onto a pending entry (42_frame_tx.md R189,
70_reset_and_hazards.md R370; log 6). -/
def safeStep (s t : State) : Prop := step s = .next t ∧ t.seqCollision = false

/-- Several operations in turn, stopping where one stops. -/
def runAll : List Instr → State → Host.Outcome State Fault Refusal
  | [], s => .next s
  | i :: is, s =>
    match exec i s with
    | .next t => runAll is t
    | .fault f => .fault f
    | .refused r => .refused r

/-- The bytes of a list of COBS groups, each a code byte and its data bytes (30_encoding.md R91). -/
def cobsGroups (gs : List Bytes) : Bytes := gs.flatMap fun g => BitVec.ofNat 8 (g.length + 1) :: g

/-- What a list of COBS groups stands for: a zero after each group of fewer than 254 data bytes, but for the last group
(30_encoding.md R91). -/
def cobsMeaning : List Bytes → Bytes
  | [] => []
  | [g] => g
  | g :: g' :: gs => g ++ (if g.length = 254 then [] else [0]) ++ cobsMeaning (g' :: gs)

/-- A byte sequence cut at its zeros: one zero-free segment more than it has zeros, in order, empty ones included
(41_cobs.md R166). -/
def zeroFreeSegments : Bytes → List Bytes
  | [] => [[]]
  | b :: x =>
    if b = 0 then [] :: zeroFreeSegments x
    else
      match zeroFreeSegments x with
      | [] => [[b]]
      | m :: ms => (b :: m) :: ms

/-- The groups of one zero-free segment: as many full groups of 254 bytes as it holds, then the group of what is left,
which is written even where nothing is left (41_cobs.md R163, R165). -/
def segmentGroups (m : Bytes) : List Bytes :=
  (List.range (m.length / 254)).map (fun i => (m.drop (254 * i)).take 254) ++ [m.drop (254 * (m.length / 254))]

/-- `m[l][r][c]` (10_state.md R34). -/
def cellAt (m : Keymap) (l r c : Nat) : Action :=
  match cellIndex l r c with
  | some i => m[i]
  | none => default

/-- The bytes of one decoded entry as 30_encoding.md R118 and R119 lay them out, the steps with it. -/
def entryWire (p : Fin 50 × Action) : Bytes :=
  [BitVec.ofNat 8 (p.1.val / 25), BitVec.ofNat 8 (p.1.val % 25 / 5), BitVec.ofNat 8 (p.1.val % 5), p.2.kind, p.2.mask] ++
    p.2.keys.toList ++ [BitVec.ofNat 8 p.2.steps.length] ++ p.2.steps.flatMap fun x =>
      [x.op, x.mask] ++ x.keys.toList ++ [x.delay.extractLsb' 0 8, x.delay.extractLsb' 8 8]

/-- An entry the decoder accepts: at most 16 steps, and none where the kind is not Macro (30_encoding.md R118). -/
def entryLegal (kindMacro : Byte) (p : Fin 50 × Action) : Prop :=
  p.2.steps.length ≤ 16 ∧ (p.2.kind ≠ kindMacro → p.2.steps = [])

/-- A config payload with a right header and CRC (30_encoding.md R115, R116, R120). -/
def cfgPayload (mode : Byte) (count : Nat) (body : Bytes) : Bytes :=
  let out : Bytes := [3, 5, 5, 2, mode, BitVec.ofNat 8 (count % 256), BitVec.ofNat 8 (count / 256)] ++ body
  out ++ [(crc16 out).extractLsb' 0 8, (crc16 out).extractLsb' 8 8]

/-- Two states differ at most in the bytes of RXBUF at or above `rx_len`, which no rule reads (10_state.md R25, R39). -/
def sameButDeadRxbuf (s t : State) : Prop :=
  t = { s with rxbuf := t.rxbuf } ∧ ∀ a < s.rxLen, t.rxbuf.read a = s.rxbuf.read a

/-- The instruction is one of the nine received command types (30_encoding.md R108). -/
def isReceived (i : Instr) : Prop := (encode i).port = .wire

/-- The `Tx`, `Notify` and `ConfigUpdated` events of a list, counted (60_exceptions.md R331). -/
def countTx (es : List Event) : Nat := es.countP fun e => match e with | .tx _ => true | _ => false
def countNotify (es : List Event) : Nat := es.countP fun e => match e with | .notify _ _ _ _ _ => true | _ => false
def countUpdated (es : List Event) : Nat := es.countP fun e => match e with | .configUpdated => true | _ => false

end Sys2Proof.Machine
end

