-- ==== Sys2Proof/Certificates/Slice0/Obligations.lean ====
section
/-! DEFINITION. The statements for the provers. In each, `{ s with … }` is the whole next state: what is not named after
`with` is as before, memory and inbox included. `result`, `events` and `seqCollision` are the model's output fields (logs
5 and 6); where a statement is about something else, `seqCollision` is left open by `∃ c`. -/

open Sys2Proof Sys2Proof.Machine

/-! ## The CRC unit -/

/-- 40_crc16.md R143, R145. -/
def Obligations.CrcInitAndGetUseTheRegister : Prop :=
  ∀ s : State,
    exec .crcInit s = .next { s with crcAcc := 0xFFFF, result := .unit, events := [], seqCollision := false } ∧
    exec .crcGet s = .next { s with result := .word s.crcAcc, events := [], seqCollision := false }

/-- 40_crc16.md R144, with `crc_step` as R141 writes it: eight rounds that test bit 15 before the shift. -/
def Obligations.CrcUpdRunsEightRounds : Prop :=
  ∀ (b : Byte) (s : State), exec (.crcUpd b) s =
    .next { s with
      crcAcc := (fun a : Half => if a.getLsbD 15 then (a <<< 1) ^^^ 0x1021 else a <<< 1)^[8]
        (s.crcAcc ^^^ (b.setWidth 16 <<< 8))
      result := .unit, events := [], seqCollision := false }

/-- 40_crc16.md R146: the fold of `crc_step` from 0xFFFF, `crc_acc` neither read nor written. -/
def Obligations.CrcBufReturnsFold : Prop :=
  ∀ (x : Bytes) (s : State), exec (.crcBuf x) s =
    .next { s with result := .word (x.foldl crcStep 0xFFFF), events := [], seqCollision := false }

/-- 40_crc16.md R148: the check value of "123456789". -/
def Obligations.CrcCheckValue : Prop :=
  crc16 [0x31, 0x32, 0x33, 0x34, 0x35, 0x36, 0x37, 0x38, 0x39] = 0x29B1

/-- 40_crc16.md R147: the streaming form gives the CRC of the bytes it was given, whatever operations of other units
stand in between. -/
def Obligations.StreamingCrcEqualsBufferCrc : Prop :=
  ∀ (is : List Instr) (s t : State),
    (∀ i ∈ is, i ≠ .crcInit ∧ i ≠ .reset) →
    runAll (.crcInit :: is) s = .next t →
    exec .crcGet t = .next { t with
      result := .word (crc16 (is.filterMap fun i => match i with | .crcUpd b => some b | _ => none))
      events := [], seqCollision := false }

/-- Two byte sequences that differ in exactly one byte have different CRCs (derived from 40_crc16.md R141). -/
def Obligations.OneChangedByteChangesCrc : Prop :=
  ∀ (x y : Bytes) (b b' : Byte), b ≠ b' → crc16 (x ++ b :: y) ≠ crc16 (x ++ b' :: y)

/-! ## The COBS codec -/

/-- 41_cobs.md R170: decoding what was encoded gives it back, for every byte sequence. -/
def Obligations.CobsRoundTrip : Prop :=
  ∀ (x : Bytes) (s : State), ∃ y : Bytes,
    exec (.cobsEnc x) s = .next { s with result := .bytes y, events := [], seqCollision := false } ∧
    ∀ t : State, exec (.cobsDec y) t = .next { t with result := .bytes x, events := [], seqCollision := false }

/-- 41_cobs.md R163, R165 (decision D8), R164 (a), (b), R166: COBS.ENC writes, for each zero-free segment of the input,
its full groups and then its last group, which is written even where it is empty. So the output has no zero, and its
length is exactly the one of R166 and within its bounds. (Derived: R164 and R166 are the spec's inferences.) -/
def Obligations.CobsOutputZeroFreeAndBounded : Prop :=
  ∀ (x : Bytes) (s : State), ∃ y : Bytes,
    exec (.cobsEnc x) s = .next { s with result := .bytes y, events := [], seqCollision := false } ∧
    y = cobsGroups ((zeroFreeSegments x).flatMap segmentGroups) ∧ (∀ b ∈ y, b ≠ 0) ∧
    y.length = x.length + 1 + ((zeroFreeSegments x).map fun m => m.length / 254).sum ∧
    x.length + 1 ≤ y.length ∧ y.length ≤ x.length + 1 + x.length / 254

/-- 41_cobs.md R167 by the groups of 30_encoding.md R91: whole groups decode to what they stand for; a code byte 0 and a
group that asks for more bytes than are left are the two framing errors. Every stream is one of the three. -/
def Obligations.CobsDecodesGroups : Prop :=
  ∀ (gs : List Bytes) (s : State), (∀ g ∈ gs, g.length ≤ 254) →
    exec (.cobsDec (cobsGroups gs)) s =
      .next { s with result := .bytes (cobsMeaning gs), events := [], seqCollision := false } ∧
    (∀ rest : Bytes, exec (.cobsDec (cobsGroups gs ++ 0 :: rest)) s =
      .next { s with result := .error .framingError .zeroCode, events := [], seqCollision := false }) ∧
    (∀ (c : Byte) (rest : Bytes), rest.length + 1 < c.toNat → exec (.cobsDec (cobsGroups gs ++ c :: rest)) s =
      .next { s with result := .error .framingError .runTruncated, events := [], seqCollision := false })

/-! ## Outgoing frames -/

/-- 42_frame_tx.md R181: the raw frame byte by byte, and the refusal of a payload over 65535 bytes. -/
def Obligations.FrameBuildLayout : Prop :=
  ∀ (type seq : Byte) (payload : Bytes) (s : State),
    let hdr : Bytes := [0x01, type, seq, BitVec.ofNat 8 (payload.length % 256), BitVec.ofNat 8 (payload.length / 256)]
    let crc := crc16 (hdr ++ payload)
    (payload.length ≤ 65535 → exec (.frameBuild type seq payload) s = .next { s with
      result := .bytes ([0xA5] ++ hdr ++ payload ++ [crc.extractLsb' 0 8, crc.extractLsb' 8 8])
      events := [], seqCollision := false }) ∧
    (65535 < payload.length → exec (.frameBuild type seq payload) s = .next { s with
      result := .refused .payloadTooLong, events := [], seqCollision := false })

/-- 42_frame_tx.md R183, R186; 60_exceptions.md R328 (derived): a payload over 65535 bytes is refused with no state change
and no event by FRAME.ENC too, and whether a SEND is silent or not. -/
def Obligations.TooLongPayloadRefused : Prop :=
  ∀ (type seq : Byte) (payload : Bytes) (silent : Bool) (s : State), 65535 < payload.length →
    let refusal : Host.Outcome State Fault Refusal :=
      .next { s with result := .refused .payloadTooLong, events := [], seqCollision := false }
    exec (.frameBuild type seq payload) s = refusal ∧ exec (.frameEnc type seq payload) s = refusal ∧
      exec (.send type payload silent) s = refusal

/-- 43_frame_rx.md R206: FRAME.PARSE gives back what FRAME.BUILD was given. -/
def Obligations.FrameParseInvertsBuild : Prop :=
  ∀ (type seq : Byte) (payload : Bytes) (s : State), payload.length ≤ 65535 → ∃ raw : Bytes,
    exec (.frameBuild type seq payload) s =
      .next { s with result := .bytes raw, events := [], seqCollision := false } ∧
    ∀ t : State, exec (.frameParse raw) t = .next { t with
      result := .parsed (.ok { ver := 1, type := type, seq := seq, length := BitVec.ofNat 16 payload.length,
                               payload := payload })
      events := [], seqCollision := false }

/-- 42_frame_tx.md R183 (derived: the zero and the length are the spec's inferences): the wire frame is the COBS encoding
of the raw frame and one terminator, its only zero, and its length is as the rule bounds it. -/
def Obligations.WireFrameEndsInItsOnlyZero : Prop :=
  ∀ (type seq : Byte) (payload : Bytes) (s : State), payload.length ≤ 65535 → ∃ raw y : Bytes,
    exec (.frameBuild type seq payload) s =
      .next { s with result := .bytes raw, events := [], seqCollision := false } ∧
    exec (.cobsEnc raw) s = .next { s with result := .bytes y, events := [], seqCollision := false } ∧
    exec (.frameEnc type seq payload) s =
      .next { s with result := .bytes (y ++ [0]), events := [], seqCollision := false } ∧
    (∀ b ∈ y, b ≠ 0) ∧ payload.length + 10 ≤ (y ++ [0]).length ∧
    (y ++ [0]).length ≤ payload.length + 10 + (payload.length + 8) / 254

/-- 42_frame_tx.md R186: the sequence number is the counter's, which counts on modulo 256; one `Tx`; unless silent an
entry with deadline `now + 5000`; a payload over 65535 bytes is refused. -/
def Obligations.SendNumbersEmitsAndRegisters : Prop :=
  ∀ (type : Byte) (payload : Bytes) (silent : Bool) (s : State),
    (payload.length ≤ 65535 → ∃ c : Bool, exec (.send type payload silent) s = .next { s with
      seqNext := BitVec.ofNat 8 ((s.seqNext.toNat + 1) % 256)
      pend := if silent then s.pend
        else s.pend.set s.seqNext.toNat (some { cmd := type, deadline := s.now + 5000 }) s.seqNext.isLt
      events := [.tx (wireFrame 1 type s.seqNext payload)]
      result := .seq s.seqNext, seqCollision := c }) ∧
    (65535 < payload.length → exec (.send type payload silent) s = .next { s with
      result := .refused .payloadTooLong, events := [], seqCollision := false })

/-- The model's flag for a send onto a pending entry (its own choice: log 6; 42_frame_tx.md R189 asks a model to flag the
step): set exactly then, by SEND, by the SEND of each REQ operation (44_session.md R250 to R256), and by the SEND that a
matched answer chains (43_frame_rx.md R214, R216, R217), which finds the table as the Resolve before it left it. -/
def Obligations.SendOntoPendingEntryIsFlagged : Prop :=
  ∀ s : State,
    let flaggedIff (i : Instr) (hit : Prop) : Prop := ∃ t : State, exec i s = .next t ∧ (t.seqCollision = true ↔ hit)
    let onto : Prop := ∃ e, s.pendAt s.seqNext = some e
    (∀ (type : Byte) (payload : Bytes) (silent : Bool), payload.length ≤ 65535 →
      flaggedIff (.send type payload silent) onto) ∧
    (∀ i ∈ [Instr.reqPing, .reqGetmap, .reqSave, .reqGetinfo], flaggedIff i onto) ∧
    (∀ fetch : Bool, flaggedIff (.reqLoad fetch) onto ∧ flaggedIff (.reqResetdefault fetch) onto) ∧
    (keymapValid s.work → ∀ save : Bool, flaggedIff (.reqSetmap save) onto) ∧
    (∀ (f : Frame) (e : PendEntry), s.pendAt f.seq = some e →
      ∀ p ∈ [(Instr.setmap f, s.saveAfterWrite), (.load f, s.fetchAfterLoad), (.resetdefault f, s.fetchAfterReset)],
        p.2 = true → flaggedIff p.1 (s.seqNext ≠ f.seq ∧ onto))

/-! ## The session -/

/-- 44_session.md R250, R251, R253, R256: PING is silent, the other three register their request. -/
def Obligations.PlainRequestsSendTheirType : Prop :=
  ∀ s : State, ∃ c : Bool,
    exec .reqPing s = .next { s with
      seqNext := s.seqNext + 1, events := [.tx (wireFrame 1 0x01 s.seqNext [])]
      result := .seq s.seqNext, seqCollision := c } ∧
    (∀ p ∈ [(Instr.reqGetmap, (0x10 : Byte)), (Instr.reqSave, 0x12), (Instr.reqGetinfo, 0x15)],
      exec p.1 s = .next { s with
        seqNext := s.seqNext + 1
        pend := s.pend.set s.seqNext.toNat (some { cmd := p.2, deadline := s.now + 5000 }) s.seqNext.isLt
        events := [.tx (wireFrame 1 p.2 s.seqNext [])]
        result := .seq s.seqNext, seqCollision := c })

/-- 44_session.md R254, R255: the flag is set by the bit 1 and left by the bit 0, and the request is sent. -/
def Obligations.LoadAndResetdefaultRequestsSetTheirFlag : Prop :=
  ∀ (fetch : Bool) (s : State), ∃ c : Bool,
    exec (.reqLoad fetch) s = .next { s with
      fetchAfterLoad := if fetch then true else s.fetchAfterLoad
      seqNext := s.seqNext + 1
      pend := s.pend.set s.seqNext.toNat (some { cmd := 0x13, deadline := s.now + 5000 }) s.seqNext.isLt
      events := [.tx (wireFrame 1 0x13 s.seqNext [])], result := .seq s.seqNext, seqCollision := c } ∧
    exec (.reqResetdefault fetch) s = .next { s with
      fetchAfterReset := if fetch then true else s.fetchAfterReset
      seqNext := s.seqNext + 1
      pend := s.pend.set s.seqNext.toNat (some { cmd := 0x14, deadline := s.now + 5000 }) s.seqNext.isLt
      events := [.tx (wireFrame 1 0x14 s.seqNext [])], result := .seq s.seqNext, seqCollision := c }

/-- 44_session.md R252: REQ.SETMAP sends what CFG.ENC answers, and is never refused for a valid keymap
(60_exceptions.md R328). -/
def Obligations.SetmapRequestSendsTheDiff : Prop :=
  ∀ (save : Bool) (s : State), keymapValid s.work → ∃ (c : Bool) (p : Bytes),
    exec .cfgEnc s = .next { s with result := .bytes p, events := [], seqCollision := false } ∧
    exec (.reqSetmap save) s = .next { s with
      saveAfterWrite := if save then true else s.saveAfterWrite
      seqNext := s.seqNext + 1
      pend := s.pend.set s.seqNext.toNat (some { cmd := 0x11, deadline := s.now + 5000 }) s.seqNext.isLt
      events := [.tx (wireFrame 1 0x11 s.seqNext p)], result := .seq s.seqNext, seqCollision := c }

/-- 44_session.md R262 for `t ≥ now`: exactly the entries whose deadline is reached are removed, each with one timeout
`Notify`; the order of the events is left open (R266). -/
def Obligations.TickExpiresExactlyDueEntries : Prop :=
  ∀ (t : Nat) (s : State), s.now ≤ t → ∃ u : State, exec (.tick t) s = .next u ∧
    u = { s with now := t, pend := u.pend, events := u.events, result := .unit, seqCollision := false } ∧
    (∀ k : Byte, u.pendAt k = (s.pendAt k).filter fun e => decide (t < e.deadline)) ∧
    (∀ ev : Event, ev ∈ u.events ↔ ∃ (k : Byte) (e : PendEntry), s.pendAt k = some e ∧ e.deadline ≤ t ∧
      ev = .notify e.cmd k .timeoutError .none []) ∧
    u.events.Nodup

/-- 44_session.md R267, R262: time never runs backwards. -/
def Obligations.TickBackwardsRefused : Prop :=
  ∀ (t : Nat) (s : State), t < s.now → exec (.tick t) s =
    .next { s with result := .refused .timeBackwards, events := [], seqCollision := false }

/-- 44_session.md R263: a request made at `t0` expires at the first TICK of at least `t0 + 5000` and at no earlier one. -/
def Obligations.TimeoutExactlyAtDeadline : Prop :=
  ∀ (type : Byte) (payload : Bytes) (s : State) (t : Nat), payload.length ≤ 65535 → s.now ≤ t →
    ∃ sent u : State, exec (.send type payload false) s = .next sent ∧ exec (.tick t) sent = .next u ∧
      (t < s.now + 5000 → u.pendAt s.seqNext = some { cmd := type, deadline := s.now + 5000 }) ∧
      (s.now + 5000 ≤ t → u.pendAt s.seqNext = none ∧
        .notify type s.seqNext .timeoutError .none [] ∈ u.events)

/-! ## Incoming frames -/

/-- 43_frame_rx.md R201, R25: a byte that is not the terminator is stored at `rx_len`, and every other byte of RXBUF is
as before. -/
def Obligations.RxByteAppends : Prop :=
  ∀ (b : Byte) (s : State), b ≠ 0 → s.rxLen < s.params.rxBufCap → ∃ m : Memory,
    exec (.rxByte b) s = .next { s with
      rxbuf := m, rxLen := s.rxLen + 1, result := .unit, events := [], seqCollision := false } ∧
    ∀ a : Nat, m.read a = if a = s.rxLen then b else s.rxbuf.read a

/-- 43_frame_rx.md R204: with the accumulator full the byte is lost and the frame condemned; at the terminator the frame
is dropped and the accumulator reset. -/
def Obligations.OverflowDropsTheFrame : Prop :=
  ∀ (b : Byte) (s : State), s.rxLen = s.params.rxBufCap →
    (b ≠ 0 → exec (.rxByte b) s =
      .next { s with rxOvf := true, result := .unit, events := [], seqCollision := false }) ∧
    (s.rxOvf = true → exec (.rxByte 0) s =
      .next { s with rxLen := 0, rxOvf := false, result := .unit, events := [], seqCollision := false })

/-- 43_frame_rx.md R202: every terminator empties the accumulator, whatever the outcome; RXBUF's bytes, `crc_acc`, `now`,
DEF and the parameters stay. -/
def Obligations.TerminatorEmptiesAccumulator : Prop :=
  ∀ s : State, s.rxLen ≤ s.params.rxBufCap → ∃ t : State, exec (.rxByte 0) s = .next t ∧
    t.rxLen = 0 ∧ t.rxOvf = false ∧ (∀ a, t.rxbuf.read a = s.rxbuf.read a) ∧ t.crcAcc = s.crcAcc ∧ t.now = s.now ∧
    t.defMap = s.defMap ∧ t.params = s.params ∧ t.inbox = s.inbox ∧ t.result = .unit

/-- 60_exceptions.md R323: a frame that does not decode, or that overflowed, is dropped: nothing but the accumulator
changes and no event is emitted. -/
def Obligations.FramingErrorDropsTheFrame : Prop :=
  ∀ s : State, s.rxLen ≤ s.params.rxBufCap →
    (s.rxOvf = true ∨ ∃ cls sub, cobsDec (s.rxbuf.readBytes 0 s.rxLen) = .err cls sub) →
    exec (.rxByte 0) s =
      .next { s with rxLen := 0, rxOvf := false, result := .unit, events := [], seqCollision := false }

/-- 43_frame_rx.md R207: a buffer of fewer than 8 bytes is dropped; one of 8 bytes or more that fails the sync, length or
CRC check resolves the entry named by its fourth byte if there is one, and is dropped otherwise; the chaining flags
stay. -/
def Obligations.FailedCheckResolvesPendingRequest : Prop :=
  ∀ (s : State) (d : Bytes), s.rxLen ≤ s.params.rxBufCap → s.rxOvf = false →
    cobsDec (s.rxbuf.readBytes 0 s.rxLen) = .ok d →
    let dropped : Host.Outcome State Fault Refusal :=
      .next { s with rxLen := 0, result := .unit, events := [], seqCollision := false }
    (d.length < 8 → exec (.rxByte 0) s = dropped) ∧
    ∀ (cls : Status) (sub : Sub) (k : Byte), frameParse d = .fail cls sub k →
      d[3]? = some k ∧ 8 ≤ d.length ∧
      ((cls, sub) = (.formatError, .badSync) ∨ (cls, sub) = (.formatError, .badLength) ∨
        (cls, sub) = (.integrityError, .badCrc)) ∧
      (s.pendAt k = none → exec (.rxByte 0) s = dropped) ∧
      (∀ e, s.pendAt k = some e → exec (.rxByte 0) s = .next { s with
        rxLen := 0, pend := s.pend.set k.toNat none k.isLt, events := [.notify e.cmd k cls sub []]
        result := .unit, seqCollision := false })

/-- 43_frame_rx.md R209, R220: a frame that passes the checks is dispatched on its `type` byte alone: it does what the
instruction of that type does, and a reserved type does nothing. -/
def Obligations.ValidFrameRunsItsInstruction : Prop :=
  ∀ (s : State) (d : Bytes) (f : ParsedFrame), s.rxLen ≤ s.params.rxBufCap → s.rxOvf = false →
    cobsDec (s.rxbuf.readBytes 0 s.rxLen) = .ok d → frameParse d = .ok f →
    let fr : Frame := { ver := f.ver, seq := f.seq, payload := f.payload }
    let at0 : State := { s with rxLen := 0 }
    (∀ p ∈ [((0x01 : Byte), Instr.ping fr), (0x02, .pong fr), (0x10, .getmap fr), (0x11, .setmap fr), (0x12, .save fr),
        (0x13, .load fr), (0x14, .resetdefault fr), (0x15, .getinfo fr), (0x7F, .error fr)],
      f.type = p.1 → exec (.rxByte 0) s = exec p.2 at0) ∧
    (f.type ∉ ([0x01, 0x02, 0x10, 0x11, 0x12, 0x13, 0x14, 0x15, 0x7F] : List Byte) →
      exec (.rxByte 0) s = .next { at0 with result := .unit, events := [], seqCollision := false })

/-- 43_frame_rx.md R205: the four checks in order; the first that fails decides. -/
def Obligations.FrameParseChecksInOrder : Prop :=
  ∀ (d : Bytes) (s : State), ∃ r : ParseResult,
    exec (.frameParse d) s = .next { s with result := .parsed r, events := [], seqCollision := false } ∧
    (d.length < 8 → r = .tooShort) ∧
    (∀ d0 d1 d2 d3 d4 d5 rest, d = [d0, d1, d2, d3, d4, d5] ++ rest → 2 ≤ rest.length →
      (d0 ≠ 0xA5 → r = .fail .formatError .badSync d3) ∧
      (d0 = 0xA5 → rest.length ≠ d4.toNat + 256 * d5.toNat + 2 → r = .fail .formatError .badLength d3) ∧
      (∀ payload clo chi, d0 = 0xA5 → rest = payload ++ [clo, chi] →
        payload.length = d4.toNat + 256 * d5.toNat →
        (chi ++ clo ≠ crc16 ([d1, d2, d3, d4, d5] ++ payload) → r = .fail .integrityError .badCrc d3) ∧
        (chi ++ clo = crc16 ([d1, d2, d3, d4, d5] ++ payload) →
          r = .ok { ver := d1, type := d2, seq := d3, length := d5 ++ d4, payload := payload })))

/-- 43_frame_rx.md R203: RX.CHUNK of one byte is RX.BYTE of it, RX.CHUNK of nothing does nothing, and cutting a chunk in
two gives the same state, and the same events in the same order. (The model's flag `seqCollision`, log 6, is set where
either part sets it.) -/
def Obligations.ChunkingHasNoEffect : Prop :=
  (∀ (b : Byte) (s : State), exec (.rxChunk [b]) s = exec (.rxByte b) s) ∧
  (∀ s : State, exec (.rxChunk []) s = .next { s with result := .unit, events := [], seqCollision := false }) ∧
  ∀ (x y : Bytes) (s : State), s.rxLen ≤ s.params.rxBufCap → ∃ t u : State,
    exec (.rxChunk x) s = .next t ∧ exec (.rxChunk y) t = .next u ∧
    exec (.rxChunk (x ++ y)) s =
      .next { u with events := t.events ++ u.events, seqCollision := t.seqCollision || u.seqCollision }

/-- 43_frame_rx.md R206 (the loop-back): the wire frame of any received-frame instruction, fed to an empty accumulator,
does what the instruction does; only RXBUF holds the frame's bytes besides. -/
def Obligations.WireFrameThroughRxRunsItsInstruction : Prop :=
  ∀ (i : Instr) (s : State), isReceived i → i.wellFormed = true → s.rxLen = 0 → s.rxOvf = false →
    (encode i).bytes.length ≤ s.params.rxBufCap + 1 → ∃ m : Memory,
      exec (.rxChunk (encode i).bytes) s = exec i { s with rxbuf := m } ∧
      m.readBytes 0 ((encode i).bytes.length - 1) = (encode i).bytes.dropLast

/-- A frame of the block's own making with one byte changed fails validation, whichever byte it is (derived from
43_frame_rx.md R222 and R205, 42_frame_tx.md R181): it is never taken for a frame and never dropped as too short, and the
sequence number it may fail is its own unless that byte is the changed one. -/
def Obligations.OneChangedByteFailsTheFrame : Prop :=
  ∀ (type seq : Byte) (payload raw : Bytes) (i : Nat) (b : Byte) (s t : State), payload.length ≤ 65535 →
    exec (.frameBuild type seq payload) s = .next t → t.result = .bytes raw →
    i < raw.length → raw[i]? ≠ some b → ∃ cls sub,
      frameParse (raw.set i b) = .fail cls sub (if i = 3 then b else seq)

/-! ## The received command types -/

/-- 43_frame_rx.md R210, R211: nothing happens, even where the frame's `seq` is pending. -/
def Obligations.PingAndPongIgnored : Prop :=
  ∀ (f : Frame) (s : State),
    exec (.ping f) s = .next { s with result := .unit, events := [], seqCollision := false } ∧
    exec (.pong f) s = .next { s with result := .unit, events := [], seqCollision := false }

/-- 43_frame_rx.md R212: an answer of one of the six request types whose `seq` is not pending has no effect. -/
def Obligations.UnmatchedAnswersHaveNoEffect : Prop :=
  ∀ (f : Frame) (s : State), s.pendAt f.seq = none →
    ∀ i ∈ [Instr.getmap f, .setmap f, .save f, .load f, .resetdefault f, .getinfo f],
      exec i s = .next { s with result := .unit, events := [], seqCollision := false }

/-- 43_frame_rx.md R213: an unmatched GetMap answer does nothing; a matched one replaces the whole map or fails and leaves
it. -/
def Obligations.GetmapAnswerReplacesWorkOrFails : Prop :=
  ∀ (f : Frame) (s : State),
    (s.pendAt f.seq = none → exec (.getmap f) s = .next { s with result := .unit, events := [], seqCollision := false }) ∧
    ∀ e : PendEntry, s.pendAt f.seq = some e →
      (∀ m, cfgDec s.params.kindMacro f.payload s.defMap = .ok m → exec (.getmap f) s = .next { s with
        work := m, pend := s.pend.set f.seq.toNat none f.seq.isLt
        events := [.notify e.cmd f.seq .ok .none [], .configUpdated], result := .unit, seqCollision := false }) ∧
      (∀ cls sub, cfgDec s.params.kindMacro f.payload s.defMap = .err cls sub → exec (.getmap f) s = .next { s with
        pend := s.pend.set f.seq.toNat none f.seq.isLt
        events := [.notify e.cmd f.seq cls sub []], result := .unit, seqCollision := false })

/-- 43_frame_rx.md R215, R218: the request, if one is pending, is resolved as success and reported by its own type; the
payload is ignored and nothing is sent. -/
def Obligations.SaveAndGetinfoAnswersResolveTheirRequest : Prop :=
  ∀ (f : Frame) (s : State), ∀ i ∈ [Instr.save f, .getinfo f],
    (s.pendAt f.seq = none → exec i s = .next { s with result := .unit, events := [], seqCollision := false }) ∧
    ∀ e : PendEntry, s.pendAt f.seq = some e → exec i s = .next { s with
      pend := s.pend.set f.seq.toNat none f.seq.isLt
      events := [.notify e.cmd f.seq .ok .none []], result := .unit, seqCollision := false }

/-- 43_frame_rx.md R214, R216, R217: an unmatched answer leaves its flag; a matched one resolves its request, and where
its flag is 1, `Notify` comes first, then the flag is cleared and the next command goes out with an empty payload and an
entry of its own. -/
def Obligations.ChainableAnswersResolveAndChain : Prop :=
  ∀ (f : Frame) (s : State),
    let chained (e : PendEntry) (next : Byte) (c : Bool) : State := { s with
      pend := (s.pend.set f.seq.toNat none f.seq.isLt).set s.seqNext.toNat
        (some { cmd := next, deadline := s.now + 5000 }) s.seqNext.isLt
      seqNext := s.seqNext + 1
      events := [.notify e.cmd f.seq .ok .none [], .tx (wireFrame 1 next s.seqNext [])]
      result := .unit, seqCollision := c }
    (∀ p ∈ [(Instr.setmap f, s.saveAfterWrite), (.load f, s.fetchAfterLoad), (.resetdefault f, s.fetchAfterReset)],
      (s.pendAt f.seq = none →
        exec p.1 s = .next { s with result := .unit, events := [], seqCollision := false }) ∧
      ∀ e : PendEntry, s.pendAt f.seq = some e → p.2 = false → exec p.1 s = .next { s with
        pend := s.pend.set f.seq.toNat none f.seq.isLt
        events := [.notify e.cmd f.seq .ok .none []], result := .unit, seqCollision := false }) ∧
    ∀ e : PendEntry, s.pendAt f.seq = some e →
      (s.saveAfterWrite = true → ∃ c,
        exec (.setmap f) s = .next { chained e 0x12 c with saveAfterWrite := false }) ∧
      (s.fetchAfterLoad = true → ∃ c,
        exec (.load f) s = .next { chained e 0x10 c with fetchAfterLoad := false }) ∧
      (s.fetchAfterReset = true → ∃ c,
        exec (.resetdefault f) s = .next { chained e 0x10 c with fetchAfterReset := false })

/-- 43_frame_rx.md R219: an Error frame clears all three flags whether or not its `seq` is pending, and fails the request
that is pending with the payload as reason. -/
def Obligations.ErrorFrameClearsFlagsAndFails : Prop :=
  ∀ (f : Frame) (s : State),
    let cleared : State := { s with
      saveAfterWrite := false, fetchAfterLoad := false, fetchAfterReset := false
      result := .unit, events := [], seqCollision := false }
    (s.pendAt f.seq = none → exec (.error f) s = .next cleared) ∧
    (∀ e, s.pendAt f.seq = some e → exec (.error f) s = .next { cleared with
      pend := s.pend.set f.seq.toNat none f.seq.isLt
      events := [.notify e.cmd f.seq .deviceError .none f.payload] })

/-- 44_session.md R259: after REQ.SETMAP with `save` 1 a success answer sends exactly one Save and clears the flag, and a
duplicate of the answer does nothing more; an Error answer sends nothing and clears all the flags, and no later SetMap
answer sends a Save on its account. -/
def Obligations.SaveAfterWriteFiresExactlyOnce : Prop :=
  ∀ (s sent : State) (f g : Frame), keymapValid s.work → exec (.reqSetmap true) s = .next sent → f.seq = s.seqNext →
    (∃ t u : State, exec (.setmap f) sent = .next t ∧
      t.events = [.notify 0x11 f.seq .ok .none [], .tx (wireFrame 1 0x12 (s.seqNext + 1) [])] ∧
      t.saveAfterWrite = false ∧ exec (.setmap f) t = .next u ∧ u.events = []) ∧
    (∃ t u : State, exec (.error f) sent = .next t ∧ t.events = [.notify 0x11 f.seq .deviceError .none f.payload] ∧
      t.saveAfterWrite = false ∧ t.fetchAfterLoad = false ∧ t.fetchAfterReset = false ∧
      exec (.setmap g) t = .next u ∧ countTx u.events = 0)

/-! ## The config codec and the edit port -/

/-- 45_config_codec.md R281: same kind, mask and keys, and, only where the kind is Macro, the same steps. -/
def Obligations.ActEqComparesWhatTheRuleNames : Prop :=
  ∀ (a b : Action) (s : State), ∃ v : Bool,
    exec (.actEq a b) s = .next { s with result := .bit v, events := [], seqCollision := false } ∧
    (v = true ↔ a.kind = b.kind ∧ a.mask = b.mask ∧ a.keys = b.keys ∧
      (a.kind = s.params.kindMacro → a.steps = b.steps))

/-- 45_config_codec.md R290: the three nested loops, the entries, the header with the count, and the CRC. -/
def Obligations.CfgEncScansLayersRowsColumns : Prop :=
  ∀ s : State, keymapValid s.work →
    let km := s.params.kindMacro
    let cells : List (Nat × Nat × Nat) := (List.range 2).flatMap fun l => (List.range 5).flatMap fun r =>
      (List.range 5).flatMap fun c =>
        if r = 4 ∧ c = 2 then [] else
        if actEq km (cellAt s.work l r c) (cellAt s.defMap l r c) then [] else [(l, r, c)]
    let entry : Nat × Nat × Nat → Bytes := fun p =>
      let a := cellAt s.work p.1 p.2.1 p.2.2
      let mlen := if a.kind = km then a.steps.length else 0
      [BitVec.ofNat 8 p.1, BitVec.ofNat 8 p.2.1, BitVec.ofNat 8 p.2.2, a.kind, a.mask] ++ a.keys.toList ++
        [BitVec.ofNat 8 mlen] ++ (a.steps.take mlen).flatMap fun x =>
          [x.op, x.mask] ++ x.keys.toList ++ [x.delay.extractLsb' 0 8, x.delay.extractLsb' 8 8]
    let out : Bytes := [3, 5, 5, 2, 0, BitVec.ofNat 8 (cells.length % 256), BitVec.ofNat 8 (cells.length / 256)] ++
      cells.flatMap entry
    let crc := crc16 out
    exec .cfgEnc s = .next { s with
      result := .bytes (out ++ [crc.extractLsb' 0 8, crc.extractLsb' 8 8]), events := [], seqCollision := false }

/-- 45_config_codec.md R291 (derived): a map equal to its default encodes to the nine bytes of the empty diff, and every
encoding of a valid map is within the bound of 30_encoding.md R115. -/
def Obligations.CfgEncEmptyDiffAndBound : Prop :=
  ∀ s : State, keymapValid s.work → ∃ p : Bytes,
    exec .cfgEnc s = .next { s with result := .bytes p, events := [], seqCollision := false } ∧
    9 ≤ p.length ∧ p.length ≤ 16865 ∧
    (s.work = s.defMap → p = [0x03, 0x05, 0x05, 0x02, 0x00, 0x00, 0x00, 0x72, 0xA4])

/-- 45_config_codec.md R301: decoding the encoding of a valid map against the same default gives it back up to ACT.EQ. -/
def Obligations.ConfigRoundTrip : Prop :=
  ∀ s : State, keymapValid s.work →
    (∀ l < 2, actEq s.params.kindMacro (cellAt s.work l 4 2) (cellAt s.defMap l 4 2) = true) →
    ∃ (p : Bytes) (m : Keymap),
      exec .cfgEnc s = .next { s with result := .bytes p, events := [], seqCollision := false } ∧
      exec (.cfgDec p) s = .next { s with result := .keymap m, events := [], seqCollision := false } ∧
      ∀ i : Fin 50, actEq s.params.kindMacro m[i] s.work[i] = true

/-- 45_config_codec.md R296, R298 and the order of R297: the three checks before the entries. -/
def Obligations.CfgDecChecksBeforeEntries : Prop :=
  ∀ (p : Bytes) (s : State),
    let answers (r : Result) : Prop :=
      exec (.cfgDec p) s = .next { s with result := r, events := [], seqCollision := false }
    (p.length < 9 → answers (.error .formatError .truncated)) ∧
    (∀ p0 p1 p2 p3 rest, p = [p0, p1, p2, p3] ++ rest → 5 ≤ rest.length →
      ([p0, p1, p2, p3] ≠ [3, 5, 5, 2] → answers (.error .formatError .badHeader)) ∧
      (∀ body clo chi, rest = body ++ [clo, chi] → [p0, p1, p2, p3] = [3, 5, 5, 2] →
        chi ++ clo ≠ crc16 ([p0, p1, p2, p3] ++ body) → answers (.error .integrityError .badCrc)))

/-- 45_config_codec.md R299, R304 (derived): the entries are applied to a copy of the default in the order they stand in,
in whatever order, the Fn-key cell and a cell named twice included; `mode` is ignored. -/
def Obligations.CfgDecAppliesEntriesInOrder : Prop :=
  ∀ (es : List (Fin 50 × Action)) (mode : Byte) (s : State), es.length ≤ 65535 →
    (∀ p ∈ es, entryLegal s.params.kindMacro p) →
    exec (.cfgDec (cfgPayload mode es.length (es.flatMap entryWire))) s = .next { s with
      result := .keymap (es.foldl (fun m p => m.set p.1.val p.2 p.1.isLt) s.defMap), events := [], seqCollision := false }

/-- 45_config_codec.md R305 below its first three rows, R299, R300: after any legal entries, with any count above their
number, the first failure of the next entry, in the order of the rule, whatever stands behind it; and bytes left over
where the count is their number. -/
def Obligations.CfgDecEntryFailures : Prop :=
  ∀ (es : List (Fin 50 × Action)) (mode : Byte) (s : State), es.length ≤ 65535 →
    (∀ p ∈ es, entryLegal s.params.kindMacro p) →
    let answers (count : Nat) (rest : Bytes) (sub : Sub) : Prop :=
      exec (.cfgDec (cfgPayload mode count (es.flatMap entryWire ++ rest))) s =
        .next { s with result := .error .formatError sub, events := [], seqCollision := false }
    (∀ rest : Bytes, rest ≠ [] → answers es.length rest .trailing) ∧
    ∀ count : Nat, es.length < count → count ≤ 65535 →
      (∀ rest : Bytes, rest.length < 12 → answers count rest .truncated) ∧
      (∀ (l r c kind mask mlen : Byte) (keys : Vector Byte 6) (tail : Bytes),
        let rest := [l, r, c, kind, mask] ++ keys.toList ++ [mlen] ++ tail
        (2 ≤ l.toNat ∨ 5 ≤ r.toNat ∨ 5 ≤ c.toNat → answers count rest .badIndex) ∧
        (l.toNat < 2 → r.toNat < 5 → c.toNat < 5 →
          (kind = s.params.kindMacro → 16 < mlen.toNat → answers count rest .macroTooLong) ∧
          (kind = s.params.kindMacro → mlen.toNat ≤ 16 → tail.length < 10 * mlen.toNat →
            answers count rest .truncated) ∧
          (kind ≠ s.params.kindMacro → mlen ≠ 0 → answers count rest .nonMacroLen)))

/-- 45_config_codec.md R302: the action of the cell, the Fn-key cell included, and a refusal of every other index. -/
def Obligations.CfgRdReturnsTheCell : Prop :=
  ∀ (l r c : Nat) (s : State),
    (∀ (hl : l < 2) (hr : r < 5) (hc : c < 5), exec (.cfgRd l r c) s = .next { s with
      result := .action (s.work[l * 25 + r * 5 + c]'(by omega)), events := [], seqCollision := false }) ∧
    (2 ≤ l ∨ 5 ≤ r ∨ 5 ≤ c → exec (.cfgRd l r c) s =
      .next { s with result := .refused .badIndex, events := [], seqCollision := false })

/-- 45_config_codec.md R303: one cell is written as given and no other; an index out of range, the Fn-key cell of either
layer and a macro of more than 16 steps are refused, in this order, with no change. -/
def Obligations.CfgWrStoresOneCellOrRefuses : Prop :=
  ∀ (l r c : Nat) (a : Action) (s : State),
    let refusal (why : RefuseReason) : Host.Outcome State Fault Refusal :=
      .next { s with result := .refused why, events := [], seqCollision := false }
    (2 ≤ l ∨ 5 ≤ r ∨ 5 ≤ c → exec (.cfgWr l r c a) s = refusal .badIndex) ∧
    (l < 2 → r = 4 → c = 2 → exec (.cfgWr l r c a) s = refusal .fnKeyReserved) ∧
    (l < 2 → r < 5 → c < 5 → ¬(r = 4 ∧ c = 2) → 16 < a.steps.length →
      exec (.cfgWr l r c a) s = refusal .macroTooLong) ∧
    (∀ (hl : l < 2) (hr : r < 5) (hc : c < 5), ¬(r = 4 ∧ c = 2) → a.steps.length ≤ 16 →
      exec (.cfgWr l r c a) s = .next { s with
        work := s.work.set (l * 25 + r * 5 + c) a (by omega), result := .unit, events := [], seqCollision := false })

/-! ## Reset, the whole machine -/

/-- 70_reset_and_hazards.md R360. What RXBUF holds after RESET is left open, as the rule leaves it. -/
def Obligations.ResetOperationReinitialises : Prop :=
  ∀ s : State, ∃ m : Memory, exec .reset s = .next { s with
    crcAcc := 0xFFFF, now := 0, rxbuf := m, rxLen := 0, rxOvf := false, seqNext := s.params.seqReset
    saveAfterWrite := false, fetchAfterLoad := false, fetchAfterReset := false
    pend := Vector.replicate 256 none, work := s.defMap, result := .unit, events := [], seqCollision := false }

/-- 10_state.md R40: the values after reset that the spec states; `Config.defaultMap` is DEFAULT_CFG, left open (log 7). -/
def Obligations.ResetStateValues : Prop :=
  State.reset.crcAcc = 0xFFFF ∧ State.reset.now = 0 ∧ State.reset.rxLen = 0 ∧ State.reset.rxOvf = false ∧
  State.reset.seqNext = 0x00 ∧ State.reset.saveAfterWrite = false ∧ State.reset.fetchAfterLoad = false ∧
  State.reset.fetchAfterReset = false ∧ (∀ k : Byte, State.reset.pendAt k = none) ∧
  State.reset.work = State.reset.defMap ∧ State.reset.defMap = Config.defaultMap

/-- The invariants hold after reset (derived: 10_state.md R37, R40; 44_session.md R267). -/
def Obligations.InvariantHoldsAtReset : Prop := State.reset.Inv

/-- 60_exceptions.md R335, R336 (derived): from every state with the invariants a step ends in a next state, and that one
has them too. Nothing is fatal and nothing needs RESET. -/
def Obligations.EveryStepCompletesAndKeepsInvariant : Prop :=
  ∀ s : State, s.Inv → ∃ t : State, step s = .next t ∧ t.Inv

/-- Decode and encode agree: every well-formed instruction, with every operand (derived: 30_encoding.md R90, R100, R108,
R124; the operand bytes of the request port are the model's choice, log 2). -/
def Obligations.DecodeInvertsEncode : Prop :=
  ∀ i : Instr, i.wellFormed = true → decode (encode i) = .ok i

/-- Words decode to what they stand for: two wire frames written out from the spec's encoding (30_encoding.md R100), and
two selectors of 30_encoding.md R124 on the request port. The byte 0x31 behind the selector of CRC.UPD, as the operand, is
the model's choice (log 2): R124 and R125 encode no operand. -/
def Obligations.WrittenWordsDecode : Prop :=
  decode { port := .wire, bytes := [0x04, 0xA5, 0x01, 0x15, 0x01, 0x01, 0x03, 0xBF, 0x1C, 0x00] } =
    .ok (.getinfo { ver := 1, seq := 0, payload := [] }) ∧
  decode { port := .wire, bytes := [0x06, 0xA5, 0x01, 0x7F, 0x05, 0x03, 0x06, 0x62, 0x61, 0x64, 0x84, 0x34, 0x00] } =
    .ok (.error { ver := 1, seq := 5, payload := [0x62, 0x61, 0x64] }) ∧
  decode { port := .request, bytes := [0x01, 0x31] } = .ok (.crcUpd 0x31) ∧
  decode { port := .request, bytes := [0x70] } = .ok .reset

/-- A step takes the oldest issued operation out of the queue and runs the instruction its bytes decode to (the queue and
the operand bytes are the model's choices: logs 1, 2; 00_scope.md R17, 20_memory.md R70). -/
def Obligations.StepRunsTheDecodedInstruction : Prop :=
  ∀ (s : State) (q : Issue) (rest : List Issue) (i : Instr), s.inbox = q :: rest → decode q = .ok i →
    (q.port = .request → step s = exec i { s with inbox := rest }) ∧
    (q.port = .wire → s.rxLen = 0 → s.rxOvf = false → q.bytes.length ≤ s.params.rxBufCap + 1 →
      step s = exec i { s with inbox := rest, rxbuf := s.rxbuf.writeBytes 0 q.bytes.dropLast })

/-- Bytes on the wire port are RX.CHUNK of those bytes in every state, whatever they are (30_encoding.md R125, derived; log
4): running a whole frame as its own instruction changes nothing. -/
def Obligations.WirePortIsRxChunk : Prop :=
  ∀ (s : State) (w : Bytes) (rest : List Issue), s.inbox = { port := .wire, bytes := w } :: rest →
    step s = exec (.rxChunk w) { s with inbox := rest }

/-- 30_encoding.md R124: a selector that names no operation is refused with no state change and no event; the 26 selectors
of the table are the only ones that name one. With nothing issued the block stays as it is (70_reset_and_hazards.md
R361). -/
def Obligations.UnassignedSelectorsRefused : Prop :=
  (∀ (s : State) (sel : Byte) (ops : Bytes) (rest : List Issue),
    s.inbox = { port := .request, bytes := sel :: ops } :: rest →
    sel ∉ ([0x00, 0x01, 0x02, 0x03, 0x10, 0x11, 0x20, 0x21, 0x22, 0x30, 0x31, 0x32, 0x40, 0x41, 0x42, 0x43, 0x44, 0x45,
      0x46, 0x47, 0x50, 0x51, 0x52, 0x53, 0x54, 0x70] : List Byte) →
    step s = .next { s with
      inbox := rest, result := .refused .unassignedOpsel, events := [], seqCollision := false }) ∧
  (∀ s : State, s.inbox = [] → step s = .next s)

/-- 10_state.md R41, R23, R24, R35, 20_memory.md R76 (derived): who may write what. `crc_acc` only the CRC port and RESET;
`now` only TICK and RESET; DEF and the parameters nobody; WORK only CFG.WR, a GetMap answer, received bytes and RESET;
RXBUF only received bytes. -/
def Obligations.OnlyTheOwnersWriteState : Prop :=
  ∀ (i : Instr) (s t : State), exec i s = .next t →
    (t.crcAcc ≠ s.crcAcc → i = .crcInit ∨ (∃ b, i = .crcUpd b) ∨ i = .reset) ∧
    (t.now ≠ s.now → (∃ n, i = .tick n) ∨ i = .reset) ∧
    (t.defMap = s.defMap ∧ t.params = s.params ∧ t.inbox = s.inbox) ∧
    (t.work ≠ s.work → (∃ l r c a, i = .cfgWr l r c a) ∨ (∃ f, i = .getmap f) ∨ (∃ b, i = .rxByte b) ∨
      (∃ x, i = .rxChunk x) ∨ i = .reset) ∧
    (t.rxbuf ≠ s.rxbuf → (∃ b, i = .rxByte b) ∨ ∃ x, i = .rxChunk x)

/-- 10_state.md R27, R28 (derived): `seq_next` counts the frames sent, modulo 256, and nothing else but RESET writes it; a
chaining flag becomes 1 only by its own REQ operation. -/
def Obligations.CounterAndFlagsHaveTheirWriters : Prop :=
  ∀ (i : Instr) (s t : State), exec i s = .next t →
    (i ≠ .reset → t.seqNext = s.seqNext + BitVec.ofNat 8 (countTx t.events)) ∧
    (s.saveAfterWrite = false → t.saveAfterWrite = true → i = .reqSetmap true) ∧
    (s.fetchAfterLoad = false → t.fetchAfterLoad = true → i = .reqLoad true) ∧
    (s.fetchAfterReset = false → t.fetchAfterReset = true → i = .reqResetdefault true)

/-- 60_exceptions.md R331: how many events of each kind one operation emits. -/
def Obligations.EventsPerOperation : Prop :=
  ∀ (i : Instr) (s t : State), exec i s = .next t →
    (∀ b, i = .rxByte b → countTx t.events ≤ 1 ∧ countNotify t.events ≤ 1 ∧ countUpdated t.events ≤ 1 ∧
      (countTx t.events = 0 ∨ countUpdated t.events = 0) ∧ (b ≠ 0 → t.events = [])) ∧
    (∀ n, i = .tick n → countTx t.events = 0 ∧ countNotify t.events ≤ 256 ∧ countUpdated t.events = 0) ∧
    ((i ∈ [.reqPing, .reqGetmap, .reqSave, .reqGetinfo] ∨ (∃ b, i ∈ [.reqSetmap b, .reqLoad b, .reqResetdefault b]) ∨
        ∃ ty p sl, i = .send ty p sl) →
      countNotify t.events = 0 ∧ countUpdated t.events = 0 ∧
      countTx t.events = if t.result = .refused .payloadTooLong then 0 else 1) ∧
    ((i ∈ [.crcInit, .crcGet, .cfgEnc, .reset] ∨ (∃ b, i = .crcUpd b) ∨
        (∃ x, i ∈ [.crcBuf x, .cobsEnc x, .cobsDec x, .frameParse x, .cfgDec x]) ∨
        (∃ ty k p, i ∈ [.frameBuild ty k p, .frameEnc ty k p]) ∨ (∃ a b, i = .actEq a b) ∨
        (∃ l r c, i = .cfgRd l r c) ∨ ∃ l r c a, i = .cfgWr l r c a) →
      t.events = [])

/-- 10_state.md R25 (derived): the bytes of RXBUF at or above `rx_len` are unobservable: two states that differ only there
give the same results, the same events and states that differ only there. -/
def Obligations.DeadRxbufBytesUnobservable : Prop :=
  ∀ (i : Instr) (s t s' : State), sameButDeadRxbuf s t → exec i s = .next s' →
    ∃ t' : State, exec i t = .next t' ∧ sameButDeadRxbuf s' t'
end

