-- ==== Sys2Proof/Laws/Codec.lean ====
section
/-! SUPPORT. The laws of the pure functions: byte order, the CRC as a fold of a bijective step, the COBS recursion, and the
reading of fixed layouts. -/

namespace Sys2Proof.Machine

/-! ## Byte order -/

theorem le16_toNat (lo hi : Byte) : (le16 lo hi).toNat = lo.toNat + 256 * hi.toNat := by
  have hl := lo.isLt
  have hh := hi.isLt
  simp only [le16, BitVec.toNat_or, BitVec.toNat_setWidth, BitVec.toNat_shiftLeft]
  rw [Nat.mod_eq_of_lt (a := lo.toNat) (by omega), Nat.mod_eq_of_lt (a := hi.toNat) (by omega),
    Nat.mod_eq_of_lt (by rw [Nat.shiftLeft_eq]; omega), Nat.or_comm, ← Nat.shiftLeft_add_eq_or_of_lt hl,
    Nat.shiftLeft_eq]
  omega

theorem lo8_toNat (v : Half) : (lo8 v).toNat = v.toNat % 256 := by
  simp [lo8, BitVec.extractLsb'_toNat]

theorem hi8_toNat (v : Half) : (hi8 v).toNat = v.toNat / 256 := by
  have := v.isLt
  simp only [hi8, BitVec.extractLsb'_toNat, Nat.shiftRight_eq_div_pow]
  omega

@[simp] theorem le16_lo8_hi8 (v : Half) : le16 (lo8 v) (hi8 v) = v := by
  apply BitVec.eq_of_toNat_eq
  rw [le16_toNat, lo8_toNat, hi8_toNat]
  omega

/-- `le16` is the append of the high byte in front of the low byte. -/
theorem le16_eq_append (lo hi : Byte) : le16 lo hi = hi ++ lo := by
  apply BitVec.eq_of_toNat_eq
  rw [le16_toNat, BitVec.toNat_append, ← Nat.shiftLeft_add_eq_or_of_lt lo.isLt, Nat.shiftLeft_eq]
  omega

/-- The bytes of a 16-bit value are determined by it. -/
theorem le16_injective {lo hi lo' hi' : Byte} (h : le16 lo hi = le16 lo' hi') : lo = lo' ∧ hi = hi' := by
  have ht := congrArg BitVec.toNat h
  rw [le16_toNat, le16_toNat] at ht
  have := lo.isLt
  have := lo'.isLt
  exact ⟨BitVec.eq_of_toNat_eq (by omega), BitVec.eq_of_toNat_eq (by omega)⟩

theorem lo8_ofNat (n : Nat) : lo8 (BitVec.ofNat 16 n) = BitVec.ofNat 8 n := by
  apply BitVec.eq_of_toNat_eq
  simp only [lo8, BitVec.extractLsb'_toNat, BitVec.toNat_ofNat, Nat.shiftRight_zero]
  omega

theorem hi8_ofNat (n : Nat) : hi8 (BitVec.ofNat 16 n) = BitVec.ofNat 8 (n / 256) := by
  apply BitVec.eq_of_toNat_eq
  simp only [hi8, BitVec.extractLsb'_toNat, BitVec.toNat_ofNat, Nat.shiftRight_eq_div_pow]
  omega

theorem leBytes_ofNat (n : Nat) : leBytes (BitVec.ofNat 16 n) = [BitVec.ofNat 8 n, BitVec.ofNat 8 (n / 256)] := by
  rw [leBytes, lo8_ofNat, hi8_ofNat]

@[simp] theorem leBytes_length (v : Half) : (leBytes v).length = 2 := rfl

/-! ## The CRC -/

theorem crcFold_append (acc : Half) (s t : Bytes) : crcFold acc (s ++ t) = crcFold (crcFold acc s) t :=
  List.foldl_append

@[simp] theorem crcFold_nil (acc : Half) : crcFold acc [] = acc := rfl

@[simp] theorem crcFold_cons (acc : Half) (b : Byte) (s : Bytes) : crcFold acc (b :: s) = crcFold (crcStep acc b) s := rfl

theorem xor_cancel_right {a b c : Half} (h : a ^^^ c = b ^^^ c) : a = b := by
  have := congrArg (· ^^^ c) h
  simpa [BitVec.xor_assoc] using this

theorem xor_cancel_left {a b c : Half} (h : c ^^^ a = c ^^^ b) : a = b := by
  rw [BitVec.xor_comm c a, BitVec.xor_comm c b] at h
  exact xor_cancel_right h

/-- The bit that a round feeds back, so that a round loses nothing. -/
theorem crcRound_lsb (a : Half) : (crcRound a).getLsbD 0 = a.msb := by
  unfold crcRound
  cases h : a.msb <;> simp [Config.crcPoly]

theorem crcRound_injective : Function.Injective crcRound := by
  intro a b h
  have hm : a.msb = b.msb := by rw [← crcRound_lsb, ← crcRound_lsb, h]
  have hs : a <<< 1 = b <<< 1 := by
    unfold crcRound at h
    rw [hm] at h
    cases hb : b.msb <;> simp only [hb, if_true, if_false, Bool.false_eq_true] at h
    · exact h
    · exact xor_cancel_right h
  ext i hi
  by_cases h15 : i = 15
  · subst h15
    simpa [BitVec.msb_eq_getLsbD_last, BitVec.getLsbD_eq_getElem] using hm
  · have := congrArg (fun v : Half => v.getLsbD (i + 1)) hs
    simp only [BitVec.getLsbD_shiftLeft] at this
    have hlt : i + 1 < 16 := by omega
    simpa [hlt, BitVec.getLsbD_eq_getElem hi] using this

theorem crcRounds_injective : ∀ n : Nat, Function.Injective (crcRounds n)
  | 0 => fun _ _ h => h
  | n + 1 => fun _ _ h => crcRound_injective (crcRounds_injective n h)

/-- From one register, two bytes give two registers. -/
theorem crcStep_injective_byte (acc : Half) : Function.Injective (crcStep acc) := by
  intro b c h
  have hx := xor_cancel_left (crcRounds_injective 8 h)
  ext i hi
  have := congrArg (fun v : Half => v.getLsbD (i + 8)) hx
  simp only [BitVec.getLsbD_shiftLeft, BitVec.getLsbD_setWidth] at this
  have h1 : i + 8 < 16 := by omega
  have h2 : i < 16 := by omega
  simpa [h1, h2, BitVec.getLsbD_eq_getElem hi] using this

/-- With one byte, two registers give two registers. -/
theorem crcStep_injective_acc (b : Byte) : Function.Injective fun acc => crcStep acc b :=
  fun _ _ h => xor_cancel_right (crcRounds_injective 8 h)

theorem crcFold_injective_acc : ∀ s : Bytes, Function.Injective fun acc => crcFold acc s
  | [] => fun _ _ h => h
  | b :: s => fun _ _ h => crcStep_injective_acc b (crcFold_injective_acc s h)

/-! ## COBS -/

@[simp] theorem cobsDec_nil : cobsDec [] = .ok [] := rfl

/-- One group of the decoder: the code byte, its data, what follows. -/
theorem cobsDecFrom_group (fuel : Nat) (g rest : Bytes) (hg : g.length ≤ 254) :
    cobsDecFrom (fuel + 1) (BitVec.ofNat 8 (g.length + 1) :: (g ++ rest)) =
      match cobsDecFrom fuel rest with
      | .ok out => .ok (g ++ (if g.length ≠ 254 ∧ rest ≠ [] then [0] else []) ++ out)
      | .err cls sub => .err cls sub := by
  have hn : (BitVec.ofNat 8 (g.length + 1)).toNat = g.length + 1 := by
    simp only [BitVec.toNat_ofNat]; omega
  have h0 : BitVec.ofNat 8 (g.length + 1) ≠ 0 := fun h => by
    have := congrArg BitVec.toNat h; rw [hn] at this; simp at this
  have hf : BitVec.ofNat 8 (g.length + 1) = Config.cobsFullCode ↔ g.length = 254 := by
    constructor
    · intro h
      have := congrArg BitVec.toNat h; rw [hn] at this; simp [Config.cobsFullCode] at this; omega
    · intro h; rw [h]; rfl
  simp only [cobsDecFrom, h0, if_false, hn, Nat.add_sub_cancel, List.length_append, List.drop_left', List.take_left',
    show ¬ g.length + rest.length < g.length by omega, ne_eq, hf]
  all_goals (cases cobsDecFrom fuel rest <;> rfl)

/-- More fuel than bytes changes nothing. -/
theorem cobsDecFrom_fuel : ∀ (n m : Nat) (y : Bytes), y.length ≤ n → y.length ≤ m →
    cobsDecFrom n y = cobsDecFrom m y
  | 0, 0, _, _, _ => rfl
  | 0, m + 1, [], _, _ => rfl
  | 0, m + 1, _ :: _, h, _ => by simp at h
  | n + 1, 0, [], _, _ => rfl
  | n + 1, 0, _ :: _, _, h => by simp at h
  | n + 1, m + 1, [], _, _ => rfl
  | n + 1, m + 1, c :: y, hn, hm => by
    simp only [List.length_cons] at hn hm
    simp only [cobsDecFrom]
    split
    · rfl
    · split
      · rfl
      · rw [cobsDecFrom_fuel n m (y.drop (c.toNat - 1)) (by simp; omega) (by simp; omega)]

/-! ## Fixed layouts -/

@[simp] theorem stepBytes_length (x : MacroStep) : (stepBytes x).length = 10 := by simp [stepBytes]

/-- The bytes of a slice that is the middle part. -/
theorem slice_middle (x y z : Bytes) : slice (x ++ y ++ z) x.length (x.length + y.length) = y := by
  simp [slice]

theorem byteAt_append_right (x y : Bytes) (i : Nat) : byteAt (x ++ y) (x.length + i) = byteAt y i := by
  simp [byteAt, List.getD_eq_getElem?_getD, List.getElem?_append_right]

theorem byteAt_append_left {x : Bytes} (y : Bytes) {i : Nat} (h : i < x.length) : byteAt (x ++ y) i = byteAt x i := by
  simp [byteAt, List.getD_eq_getElem?_getD, List.getElem?_append_left h]

theorem stepAt_append_right (x y : Bytes) (i : Nat) : stepAt (x ++ y) (x.length + i) = stepAt y i := by
  simp only [stepAt, keysAt, Nat.add_assoc, byteAt_append_right]

/-- Reading a step's bytes gives the step. -/
theorem stepAt_stepBytes (x : MacroStep) (y : Bytes) : stepAt (stepBytes x ++ y) 0 = x := by
  obtain ⟨op, mask, ⟨⟨keys⟩, hk⟩, delay⟩ := x
  simp only [List.size_toArray] at hk
  match keys, hk with
  | [k0, k1, k2, k3, k4, k5], _ =>
    simp only [stepBytes, stepAt, keysAt, byteAt, leBytes, Vector.toList_mk, List.cons_append, List.nil_append,
      List.getD_cons_zero, List.getD_cons_succ, Nat.zero_add, le16_lo8_hi8]

end Sys2Proof.Machine
end

