-- ==== Sys2Proof/Laws/Memory.lean ====
section
/-! SUPPORT. The laws of RXBUF: every operation keeps the canonical form, a read after a write gives what was written, and
a write leaves every other index alone. -/

namespace Sys2Proof.Machine

theorem Memory.risingFrom_mono {lo lo' : Nat} (h : lo ≤ lo') : ∀ {m : Memory},
    Memory.risingFrom lo' m = true → Memory.risingFrom lo m = true
  | [], _ => rfl
  | c :: m, hm => by
    simp only [Memory.risingFrom, Bool.and_eq_true, decide_eq_true_eq] at hm ⊢
    exact ⟨⟨le_trans h hm.1.1, hm.1.2⟩, hm.2⟩

theorem Memory.write_risingFrom (a : Nat) (b : Byte) : ∀ (m : Memory) (lo : Nat), lo ≤ a →
    Memory.risingFrom lo m = true → Memory.risingFrom lo (Memory.write m a b) = true
  | [], lo, hlo, _ => by
    by_cases hb : b = Memory.unlisted <;> simp [Memory.write, Memory.risingFrom, hb, hlo]
  | c :: m, lo, hlo, hm => by
    simp only [Memory.risingFrom, Bool.and_eq_true, decide_eq_true_eq] at hm
    unfold Memory.write
    split
    · rename_i hac
      by_cases hb : b = Memory.unlisted
      · simp [hb, Memory.risingFrom, hm]
      · simp [hb, Memory.risingFrom, hm, hlo, Nat.succ_le_of_lt hac]
    · rename_i hac
      split
      · rename_i hEq
        subst hEq
        by_cases hb : b = Memory.unlisted
        · simp only [hb, if_true]
          exact Memory.risingFrom_mono (le_trans hm.1.1 (Nat.le_succ _)) hm.2
        · simp [hb, Memory.risingFrom, hm]
      · rename_i hne
        have hlt : c.1 + 1 ≤ a := by omega
        simp [Memory.risingFrom, hm, Memory.write_risingFrom a b m (c.1 + 1) hlt hm.2]

/-- A write keeps the canonical form. -/
theorem Memory.write_keeps_wf (m : Memory) (a : Nat) (b : Byte) (h : m.wf = true) : (m.write a b).wf = true :=
  Memory.write_risingFrom a b m 0 (Nat.zero_le a) h

/-- A write of a sequence keeps the canonical form. -/
theorem Memory.writeBytes_keeps_wf : ∀ (x : Bytes) (m : Memory) (a : Nat), m.wf = true → (m.writeBytes a x).wf = true
  | [], _, _, h => h
  | b :: x, m, a, h => Memory.writeBytes_keeps_wf x _ _ (Memory.write_keeps_wf m a b h)

theorem Memory.reset_wf : Memory.wf State.reset.rxbuf = true := rfl

/-- Below the first listed index nothing is listed. -/
theorem Memory.read_below : ∀ (m : Memory) (lo a : Nat), Memory.risingFrom lo m = true → a < lo →
    m.read a = Memory.unlisted
  | [], _, _, _, _ => rfl
  | c :: m, lo, a, h, ha => by
    simp only [Memory.risingFrom, Bool.and_eq_true, decide_eq_true_eq] at h
    have hne : a ≠ c.1 := by omega
    simp only [Memory.read, hne, if_false]
    exact Memory.read_below m (c.1 + 1) a h.2 (by omega)

/-- A write leaves every other index alone, in any memory. -/
theorem Memory.read_write_other {a a' : Nat} (b : Byte) (hne : a' ≠ a) : ∀ m : Memory,
    (m.write a b).read a' = m.read a'
  | [] => by
    by_cases hb : b = Memory.unlisted <;> simp [Memory.write, Memory.read, hb, hne]
  | c :: m => by
    unfold Memory.write
    split
    · by_cases hb : b = Memory.unlisted <;> simp [Memory.read, hb, hne]
    · split
      · rename_i hEq
        subst hEq
        by_cases hb : b = Memory.unlisted <;> simp [Memory.read, hb, hne]
      · simp [Memory.read, Memory.read_write_other b hne m]

/-- A read after a write of a byte that an unlisted index does not read as, in any memory. -/
theorem Memory.read_write_same (a : Nat) {b : Byte} (hb : b ≠ Memory.unlisted) : ∀ m : Memory,
    (m.write a b).read a = b
  | [] => by simp [Memory.write, Memory.read, hb]
  | c :: m => by
    unfold Memory.write
    simp only [hb, if_false]
    split
    · simp [Memory.read]
    · split
      · simp [Memory.read]
      · rename_i hne
        simp [Memory.read, hne, Memory.read_write_same a hb m]

theorem Memory.read_write_same_rising (a : Nat) (b : Byte) : ∀ (m : Memory) (lo : Nat),
    Memory.risingFrom lo m = true → (m.write a b).read a = b
  | [], _, _ => by
    by_cases hb : b = Memory.unlisted <;> simp [Memory.write, Memory.read, hb]
  | c :: m, lo, h => by
    by_cases hb : b = Memory.unlisted
    · simp only [Memory.risingFrom, Bool.and_eq_true, decide_eq_true_eq] at h
      subst hb
      unfold Memory.write
      split
      · rename_i hac
        have hne : a ≠ c.1 := by omega
        simp only [if_true, Memory.read, hne, if_false]
        exact Memory.read_below m (c.1 + 1) a h.2 (by omega)
      · split
        · rename_i hEq
          subst hEq
          simp only [if_true]
          exact Memory.read_below m (c.1 + 1) c.1 h.2 (by omega)
        · rename_i hne
          simp only [Memory.read, hne, if_false]
          exact Memory.read_write_same_rising a _ m (c.1 + 1) h.2
    · exact Memory.read_write_same a hb _

/-- A read after any write, in a canonical memory. -/
theorem Memory.read_write_same_of_wf (m : Memory) (a : Nat) (b : Byte) (h : m.wf = true) : (m.write a b).read a = b :=
  Memory.read_write_same_rising a b m 0 h

/-- What a write lists is what was listed, or the index written. -/
theorem Memory.mem_write {a : Nat} {b : Byte} {c : Host.Cell} : ∀ {m : Memory}, c ∈ m.write a b → c = (a, b) ∨ c ∈ m
  | [], h => by
    by_cases hb : b = Memory.unlisted <;> simp [Memory.write, hb] at h
    exact Or.inl h
  | d :: m, h => by
    unfold Memory.write at h
    split at h
    · by_cases hb : b = Memory.unlisted <;> simp [hb] at h <;> simp [hb] <;> tauto
    · split at h
      · by_cases hb : b = Memory.unlisted <;> simp [hb] at h <;> simp [hb] <;> tauto
      · simp only [List.mem_cons] at h ⊢
        rcases h with h | h
        · exact Or.inr (Or.inl h)
        · rcases Memory.mem_write h with h | h
          · exact Or.inl h
          · exact Or.inr (Or.inr h)

/-- A write of a sequence leaves the indices outside it. -/
theorem Memory.read_writeBytes_outside : ∀ (x : Bytes) (m : Memory) (a a' : Nat), (a' < a ∨ a + x.length ≤ a') →
    (m.writeBytes a x).read a' = m.read a'
  | [], _, _, _, _ => rfl
  | b :: x, m, a, a', h => by
    simp only [Memory.writeBytes]
    rw [Memory.read_writeBytes_outside x _ (a + 1) a' (by simp only [List.length_cons] at h; omega)]
    exact Memory.read_write_other b (by simp only [List.length_cons] at h; omega) m

/-- Reading back a sequence of bytes that an unlisted index does not read as. -/
theorem Memory.readBytes_writeBytes : ∀ (x : Bytes) (m : Memory) (a : Nat), (∀ b ∈ x, b ≠ Memory.unlisted) →
    (m.writeBytes a x).readBytes a x.length = x
  | [], _, _, _ => rfl
  | b :: x, m, a, h => by
    simp only [Memory.writeBytes, List.length_cons, Memory.readBytes]
    rw [Memory.read_writeBytes_outside x _ (a + 1) a (by omega), Memory.read_write_same a (h b (by simp)),
      Memory.readBytes_writeBytes x _ (a + 1) (fun c hc => h c (by simp [hc]))]

/-- Reading depends only on the bytes read. -/
theorem Memory.readBytes_congr (m m' : Memory) : ∀ (n a : Nat), (∀ i < n, m.read (a + i) = m'.read (a + i)) →
    m.readBytes a n = m'.readBytes a n
  | 0, _, _ => rfl
  | n + 1, a, h => by
    simp only [Memory.readBytes]
    rw [Memory.readBytes_congr m m' n (a + 1) (fun i hi => by
      have := h (i + 1) (by omega)
      rwa [show a + (i + 1) = a + 1 + i by omega] at this)]
    have h0 := h 0 (by omega)
    simp only [Nat.add_zero] at h0
    rw [h0]

@[simp] theorem Memory.readBytes_length (m : Memory) : ∀ (n a : Nat), (m.readBytes a n).length = n
  | 0, _ => rfl
  | n + 1, a => by simp [Memory.readBytes, Memory.readBytes_length m n (a + 1)]

/-- A byte of a sequence read is a byte of the memory. -/
theorem Memory.mem_readBytes {m : Memory} {b : Byte} : ∀ {n a : Nat}, b ∈ m.readBytes a n →
    ∃ i < n, b = m.read (a + i)
  | 0, _, h => by simp [Memory.readBytes] at h
  | n + 1, a, h => by
    simp only [Memory.readBytes, List.mem_cons] at h
    rcases h with h | h
    · exact ⟨0, by omega, by simpa using h⟩
    · obtain ⟨i, hi, hb⟩ := Memory.mem_readBytes h
      exact ⟨i + 1, by omega, by rw [hb]; congr 1; omega⟩

end Sys2Proof.Machine
end

