-- ==== Sys2Proof/Laws/State.lean ====
section
/-! SUPPORT. One lemma for each field of the state under each update, so that no later proof unfolds an update. -/

namespace Sys2Proof.Machine

variable (s : State)

@[simp] theorem State.start_params : s.start.params = s.params := rfl
@[simp] theorem State.start_defMap : s.start.defMap = s.defMap := rfl
@[simp] theorem State.start_crcAcc : s.start.crcAcc = s.crcAcc := rfl
@[simp] theorem State.start_now : s.start.now = s.now := rfl
@[simp] theorem State.start_rxbuf : s.start.rxbuf = s.rxbuf := rfl
@[simp] theorem State.start_rxLen : s.start.rxLen = s.rxLen := rfl
@[simp] theorem State.start_rxOvf : s.start.rxOvf = s.rxOvf := rfl
@[simp] theorem State.start_seqNext : s.start.seqNext = s.seqNext := rfl
@[simp] theorem State.start_saveAfterWrite : s.start.saveAfterWrite = s.saveAfterWrite := rfl
@[simp] theorem State.start_fetchAfterLoad : s.start.fetchAfterLoad = s.fetchAfterLoad := rfl
@[simp] theorem State.start_fetchAfterReset : s.start.fetchAfterReset = s.fetchAfterReset := rfl
@[simp] theorem State.start_pend : s.start.pend = s.pend := rfl
@[simp] theorem State.start_work : s.start.work = s.work := rfl
@[simp] theorem State.start_inbox : s.start.inbox = s.inbox := rfl
@[simp] theorem State.start_result : s.start.result = .unit := rfl
@[simp] theorem State.start_events : s.start.events = [] := rfl
@[simp] theorem State.start_seqCollision : s.start.seqCollision = false := rfl

@[simp] theorem State.finish_params (r : Result) : (s.finish r).params = s.params := rfl
@[simp] theorem State.finish_defMap (r : Result) : (s.finish r).defMap = s.defMap := rfl
@[simp] theorem State.finish_crcAcc (r : Result) : (s.finish r).crcAcc = s.crcAcc := rfl
@[simp] theorem State.finish_now (r : Result) : (s.finish r).now = s.now := rfl
@[simp] theorem State.finish_rxbuf (r : Result) : (s.finish r).rxbuf = s.rxbuf := rfl
@[simp] theorem State.finish_rxLen (r : Result) : (s.finish r).rxLen = s.rxLen := rfl
@[simp] theorem State.finish_rxOvf (r : Result) : (s.finish r).rxOvf = s.rxOvf := rfl
@[simp] theorem State.finish_seqNext (r : Result) : (s.finish r).seqNext = s.seqNext := rfl
@[simp] theorem State.finish_saveAfterWrite (r : Result) : (s.finish r).saveAfterWrite = s.saveAfterWrite := rfl
@[simp] theorem State.finish_fetchAfterLoad (r : Result) : (s.finish r).fetchAfterLoad = s.fetchAfterLoad := rfl
@[simp] theorem State.finish_fetchAfterReset (r : Result) : (s.finish r).fetchAfterReset = s.fetchAfterReset := rfl
@[simp] theorem State.finish_pend (r : Result) : (s.finish r).pend = s.pend := rfl
@[simp] theorem State.finish_work (r : Result) : (s.finish r).work = s.work := rfl
@[simp] theorem State.finish_inbox (r : Result) : (s.finish r).inbox = s.inbox := rfl
@[simp] theorem State.finish_result (r : Result) : (s.finish r).result = r := rfl
@[simp] theorem State.finish_events (r : Result) : (s.finish r).events = s.events := rfl
@[simp] theorem State.finish_seqCollision (r : Result) : (s.finish r).seqCollision = s.seqCollision := rfl

@[simp] theorem State.refuse_params (why : RefuseReason) : (s.refuse why).params = s.params := rfl
@[simp] theorem State.refuse_defMap (why : RefuseReason) : (s.refuse why).defMap = s.defMap := rfl
@[simp] theorem State.refuse_crcAcc (why : RefuseReason) : (s.refuse why).crcAcc = s.crcAcc := rfl
@[simp] theorem State.refuse_now (why : RefuseReason) : (s.refuse why).now = s.now := rfl
@[simp] theorem State.refuse_rxbuf (why : RefuseReason) : (s.refuse why).rxbuf = s.rxbuf := rfl
@[simp] theorem State.refuse_rxLen (why : RefuseReason) : (s.refuse why).rxLen = s.rxLen := rfl
@[simp] theorem State.refuse_rxOvf (why : RefuseReason) : (s.refuse why).rxOvf = s.rxOvf := rfl
@[simp] theorem State.refuse_seqNext (why : RefuseReason) : (s.refuse why).seqNext = s.seqNext := rfl
@[simp] theorem State.refuse_saveAfterWrite (why : RefuseReason) : (s.refuse why).saveAfterWrite = s.saveAfterWrite := rfl
@[simp] theorem State.refuse_fetchAfterLoad (why : RefuseReason) : (s.refuse why).fetchAfterLoad = s.fetchAfterLoad := rfl
@[simp] theorem State.refuse_fetchAfterReset (why : RefuseReason) : (s.refuse why).fetchAfterReset = s.fetchAfterReset := rfl
@[simp] theorem State.refuse_pend (why : RefuseReason) : (s.refuse why).pend = s.pend := rfl
@[simp] theorem State.refuse_work (why : RefuseReason) : (s.refuse why).work = s.work := rfl
@[simp] theorem State.refuse_inbox (why : RefuseReason) : (s.refuse why).inbox = s.inbox := rfl
@[simp] theorem State.refuse_result (why : RefuseReason) : (s.refuse why).result = .refused why := rfl
@[simp] theorem State.refuse_events (why : RefuseReason) : (s.refuse why).events = [] := rfl
@[simp] theorem State.refuse_seqCollision (why : RefuseReason) : (s.refuse why).seqCollision = false := rfl

@[simp] theorem State.emit_params (e : Event) : (s.emit e).params = s.params := rfl
@[simp] theorem State.emit_defMap (e : Event) : (s.emit e).defMap = s.defMap := rfl
@[simp] theorem State.emit_crcAcc (e : Event) : (s.emit e).crcAcc = s.crcAcc := rfl
@[simp] theorem State.emit_now (e : Event) : (s.emit e).now = s.now := rfl
@[simp] theorem State.emit_rxbuf (e : Event) : (s.emit e).rxbuf = s.rxbuf := rfl
@[simp] theorem State.emit_rxLen (e : Event) : (s.emit e).rxLen = s.rxLen := rfl
@[simp] theorem State.emit_rxOvf (e : Event) : (s.emit e).rxOvf = s.rxOvf := rfl
@[simp] theorem State.emit_seqNext (e : Event) : (s.emit e).seqNext = s.seqNext := rfl
@[simp] theorem State.emit_saveAfterWrite (e : Event) : (s.emit e).saveAfterWrite = s.saveAfterWrite := rfl
@[simp] theorem State.emit_fetchAfterLoad (e : Event) : (s.emit e).fetchAfterLoad = s.fetchAfterLoad := rfl
@[simp] theorem State.emit_fetchAfterReset (e : Event) : (s.emit e).fetchAfterReset = s.fetchAfterReset := rfl
@[simp] theorem State.emit_pend (e : Event) : (s.emit e).pend = s.pend := rfl
@[simp] theorem State.emit_work (e : Event) : (s.emit e).work = s.work := rfl
@[simp] theorem State.emit_inbox (e : Event) : (s.emit e).inbox = s.inbox := rfl
@[simp] theorem State.emit_result (e : Event) : (s.emit e).result = s.result := rfl
@[simp] theorem State.emit_events (e : Event) : (s.emit e).events = s.events ++ [e] := rfl
@[simp] theorem State.emit_seqCollision (e : Event) : (s.emit e).seqCollision = s.seqCollision := rfl

@[simp] theorem State.setPend_params (k : Byte) (e : Option PendEntry) : (s.setPend k e).params = s.params := rfl
@[simp] theorem State.setPend_defMap (k : Byte) (e : Option PendEntry) : (s.setPend k e).defMap = s.defMap := rfl
@[simp] theorem State.setPend_crcAcc (k : Byte) (e : Option PendEntry) : (s.setPend k e).crcAcc = s.crcAcc := rfl
@[simp] theorem State.setPend_now (k : Byte) (e : Option PendEntry) : (s.setPend k e).now = s.now := rfl
@[simp] theorem State.setPend_rxbuf (k : Byte) (e : Option PendEntry) : (s.setPend k e).rxbuf = s.rxbuf := rfl
@[simp] theorem State.setPend_rxLen (k : Byte) (e : Option PendEntry) : (s.setPend k e).rxLen = s.rxLen := rfl
@[simp] theorem State.setPend_rxOvf (k : Byte) (e : Option PendEntry) : (s.setPend k e).rxOvf = s.rxOvf := rfl
@[simp] theorem State.setPend_seqNext (k : Byte) (e : Option PendEntry) : (s.setPend k e).seqNext = s.seqNext := rfl
@[simp] theorem State.setPend_saveAfterWrite (k : Byte) (e : Option PendEntry) : (s.setPend k e).saveAfterWrite = s.saveAfterWrite := rfl
@[simp] theorem State.setPend_fetchAfterLoad (k : Byte) (e : Option PendEntry) : (s.setPend k e).fetchAfterLoad = s.fetchAfterLoad := rfl
@[simp] theorem State.setPend_fetchAfterReset (k : Byte) (e : Option PendEntry) : (s.setPend k e).fetchAfterReset = s.fetchAfterReset := rfl
@[simp] theorem State.setPend_pend (k : Byte) (e : Option PendEntry) : (s.setPend k e).pend = s.pend.set k.toNat e k.isLt := rfl
@[simp] theorem State.setPend_work (k : Byte) (e : Option PendEntry) : (s.setPend k e).work = s.work := rfl
@[simp] theorem State.setPend_inbox (k : Byte) (e : Option PendEntry) : (s.setPend k e).inbox = s.inbox := rfl
@[simp] theorem State.setPend_result (k : Byte) (e : Option PendEntry) : (s.setPend k e).result = s.result := rfl
@[simp] theorem State.setPend_events (k : Byte) (e : Option PendEntry) : (s.setPend k e).events = s.events := rfl
@[simp] theorem State.setPend_seqCollision (k : Byte) (e : Option PendEntry) : (s.setPend k e).seqCollision = s.seqCollision := rfl

@[simp] theorem State.clearFlags_params : s.clearFlags.params = s.params := rfl
@[simp] theorem State.clearFlags_defMap : s.clearFlags.defMap = s.defMap := rfl
@[simp] theorem State.clearFlags_crcAcc : s.clearFlags.crcAcc = s.crcAcc := rfl
@[simp] theorem State.clearFlags_now : s.clearFlags.now = s.now := rfl
@[simp] theorem State.clearFlags_rxbuf : s.clearFlags.rxbuf = s.rxbuf := rfl
@[simp] theorem State.clearFlags_rxLen : s.clearFlags.rxLen = s.rxLen := rfl
@[simp] theorem State.clearFlags_rxOvf : s.clearFlags.rxOvf = s.rxOvf := rfl
@[simp] theorem State.clearFlags_seqNext : s.clearFlags.seqNext = s.seqNext := rfl
@[simp] theorem State.clearFlags_saveAfterWrite : s.clearFlags.saveAfterWrite = false := rfl
@[simp] theorem State.clearFlags_fetchAfterLoad : s.clearFlags.fetchAfterLoad = false := rfl
@[simp] theorem State.clearFlags_fetchAfterReset : s.clearFlags.fetchAfterReset = false := rfl
@[simp] theorem State.clearFlags_pend : s.clearFlags.pend = s.pend := rfl
@[simp] theorem State.clearFlags_work : s.clearFlags.work = s.work := rfl
@[simp] theorem State.clearFlags_inbox : s.clearFlags.inbox = s.inbox := rfl
@[simp] theorem State.clearFlags_result : s.clearFlags.result = s.result := rfl
@[simp] theorem State.clearFlags_events : s.clearFlags.events = s.events := rfl
@[simp] theorem State.clearFlags_seqCollision : s.clearFlags.seqCollision = s.seqCollision := rfl

@[simp] theorem State.resetAccumulator_params : s.resetAccumulator.params = s.params := rfl
@[simp] theorem State.resetAccumulator_defMap : s.resetAccumulator.defMap = s.defMap := rfl
@[simp] theorem State.resetAccumulator_crcAcc : s.resetAccumulator.crcAcc = s.crcAcc := rfl
@[simp] theorem State.resetAccumulator_now : s.resetAccumulator.now = s.now := rfl
@[simp] theorem State.resetAccumulator_rxbuf : s.resetAccumulator.rxbuf = s.rxbuf := rfl
@[simp] theorem State.resetAccumulator_rxLen : s.resetAccumulator.rxLen = 0 := rfl
@[simp] theorem State.resetAccumulator_rxOvf : s.resetAccumulator.rxOvf = false := rfl
@[simp] theorem State.resetAccumulator_seqNext : s.resetAccumulator.seqNext = s.seqNext := rfl
@[simp] theorem State.resetAccumulator_saveAfterWrite : s.resetAccumulator.saveAfterWrite = s.saveAfterWrite := rfl
@[simp] theorem State.resetAccumulator_fetchAfterLoad : s.resetAccumulator.fetchAfterLoad = s.fetchAfterLoad := rfl
@[simp] theorem State.resetAccumulator_fetchAfterReset : s.resetAccumulator.fetchAfterReset = s.fetchAfterReset := rfl
@[simp] theorem State.resetAccumulator_pend : s.resetAccumulator.pend = s.pend := rfl
@[simp] theorem State.resetAccumulator_work : s.resetAccumulator.work = s.work := rfl
@[simp] theorem State.resetAccumulator_inbox : s.resetAccumulator.inbox = s.inbox := rfl
@[simp] theorem State.resetAccumulator_result : s.resetAccumulator.result = s.result := rfl
@[simp] theorem State.resetAccumulator_events : s.resetAccumulator.events = s.events := rfl
@[simp] theorem State.resetAccumulator_seqCollision : s.resetAccumulator.seqCollision = s.seqCollision := rfl

@[simp] theorem State.latchFrame_params (w : Bytes) : (s.latchFrame w).params = s.params := rfl
@[simp] theorem State.latchFrame_defMap (w : Bytes) : (s.latchFrame w).defMap = s.defMap := rfl
@[simp] theorem State.latchFrame_crcAcc (w : Bytes) : (s.latchFrame w).crcAcc = s.crcAcc := rfl
@[simp] theorem State.latchFrame_now (w : Bytes) : (s.latchFrame w).now = s.now := rfl
@[simp] theorem State.latchFrame_rxbuf (w : Bytes) : (s.latchFrame w).rxbuf = s.rxbuf.writeBytes 0 w.dropLast := rfl
@[simp] theorem State.latchFrame_rxLen (w : Bytes) : (s.latchFrame w).rxLen = 0 := rfl
@[simp] theorem State.latchFrame_rxOvf (w : Bytes) : (s.latchFrame w).rxOvf = false := rfl
@[simp] theorem State.latchFrame_seqNext (w : Bytes) : (s.latchFrame w).seqNext = s.seqNext := rfl
@[simp] theorem State.latchFrame_saveAfterWrite (w : Bytes) : (s.latchFrame w).saveAfterWrite = s.saveAfterWrite := rfl
@[simp] theorem State.latchFrame_fetchAfterLoad (w : Bytes) : (s.latchFrame w).fetchAfterLoad = s.fetchAfterLoad := rfl
@[simp] theorem State.latchFrame_fetchAfterReset (w : Bytes) : (s.latchFrame w).fetchAfterReset = s.fetchAfterReset := rfl
@[simp] theorem State.latchFrame_pend (w : Bytes) : (s.latchFrame w).pend = s.pend := rfl
@[simp] theorem State.latchFrame_work (w : Bytes) : (s.latchFrame w).work = s.work := rfl
@[simp] theorem State.latchFrame_inbox (w : Bytes) : (s.latchFrame w).inbox = s.inbox := rfl
@[simp] theorem State.latchFrame_result (w : Bytes) : (s.latchFrame w).result = s.result := rfl
@[simp] theorem State.latchFrame_events (w : Bytes) : (s.latchFrame w).events = s.events := rfl
@[simp] theorem State.latchFrame_seqCollision (w : Bytes) : (s.latchFrame w).seqCollision = s.seqCollision := rfl

@[simp] theorem State.setFlag_params (v : Bool) (g : ChainFlag) : (s.setFlag v g).params = s.params := by cases g <;> rfl
@[simp] theorem State.setFlag_defMap (v : Bool) (g : ChainFlag) : (s.setFlag v g).defMap = s.defMap := by cases g <;> rfl
@[simp] theorem State.setFlag_crcAcc (v : Bool) (g : ChainFlag) : (s.setFlag v g).crcAcc = s.crcAcc := by cases g <;> rfl
@[simp] theorem State.setFlag_now (v : Bool) (g : ChainFlag) : (s.setFlag v g).now = s.now := by cases g <;> rfl
@[simp] theorem State.setFlag_rxbuf (v : Bool) (g : ChainFlag) : (s.setFlag v g).rxbuf = s.rxbuf := by cases g <;> rfl
@[simp] theorem State.setFlag_rxLen (v : Bool) (g : ChainFlag) : (s.setFlag v g).rxLen = s.rxLen := by cases g <;> rfl
@[simp] theorem State.setFlag_rxOvf (v : Bool) (g : ChainFlag) : (s.setFlag v g).rxOvf = s.rxOvf := by cases g <;> rfl
@[simp] theorem State.setFlag_seqNext (v : Bool) (g : ChainFlag) : (s.setFlag v g).seqNext = s.seqNext := by cases g <;> rfl
@[simp] theorem State.setFlag_pend (v : Bool) (g : ChainFlag) : (s.setFlag v g).pend = s.pend := by cases g <;> rfl
@[simp] theorem State.setFlag_work (v : Bool) (g : ChainFlag) : (s.setFlag v g).work = s.work := by cases g <;> rfl
@[simp] theorem State.setFlag_inbox (v : Bool) (g : ChainFlag) : (s.setFlag v g).inbox = s.inbox := by cases g <;> rfl
@[simp] theorem State.setFlag_result (v : Bool) (g : ChainFlag) : (s.setFlag v g).result = s.result := by cases g <;> rfl
@[simp] theorem State.setFlag_events (v : Bool) (g : ChainFlag) : (s.setFlag v g).events = s.events := by cases g <;> rfl
@[simp] theorem State.setFlag_seqCollision (v : Bool) (g : ChainFlag) : (s.setFlag v g).seqCollision = s.seqCollision := by cases g <;> rfl
@[simp] theorem State.setFlag_saveAfterWrite (v : Bool) (g : ChainFlag) :
    (s.setFlag v g).saveAfterWrite = if g = .saveAfterWrite then v else s.saveAfterWrite := by cases g <;> rfl
@[simp] theorem State.setFlag_fetchAfterLoad (v : Bool) (g : ChainFlag) :
    (s.setFlag v g).fetchAfterLoad = if g = .fetchAfterLoad then v else s.fetchAfterLoad := by cases g <;> rfl
@[simp] theorem State.setFlag_fetchAfterReset (v : Bool) (g : ChainFlag) :
    (s.setFlag v g).fetchAfterReset = if g = .fetchAfterReset then v else s.fetchAfterReset := by cases g <;> rfl

@[simp] theorem State.pendAt_start (k : Byte) : s.start.pendAt k = s.pendAt k := rfl
@[simp] theorem State.pendAt_finish (r : Result) (k : Byte) : (s.finish r).pendAt k = s.pendAt k := rfl
@[simp] theorem State.pendAt_refuse (why : RefuseReason) (k : Byte) : (s.refuse why).pendAt k = s.pendAt k := rfl
@[simp] theorem State.pendAt_emit (e : Event) (k : Byte) : (s.emit e).pendAt k = s.pendAt k := rfl
@[simp] theorem State.pendAt_clearFlags (k : Byte) : s.clearFlags.pendAt k = s.pendAt k := rfl
@[simp] theorem State.pendAt_resetAccumulator (k : Byte) : s.resetAccumulator.pendAt k = s.pendAt k := rfl
@[simp] theorem State.pendAt_latchFrame (w : Bytes) (k : Byte) : (s.latchFrame w).pendAt k = s.pendAt k := rfl
@[simp] theorem State.pendAt_setFlag (v : Bool) (g : ChainFlag) (k : Byte) : (s.setFlag v g).pendAt k = s.pendAt k := by
  cases g <;> rfl

@[simp] theorem State.pendAt_setPend_same (k : Byte) (e : Option PendEntry) : (s.setPend k e).pendAt k = e := by
  simp [State.pendAt, State.setPend]

/-- Writing one entry leaves every other. -/
theorem State.pendAt_setPend_other {k j : Byte} (e : Option PendEntry) (h : j ≠ k) :
    (s.setPend k e).pendAt j = s.pendAt j := by
  have hn : k.toNat ≠ j.toNat := fun hk => h (BitVec.eq_of_toNat_eq hk.symm)
  simp [State.pendAt, State.setPend, Vector.getElem_set_ne k.isLt j.isLt hn]

theorem State.pendAt_setPend (k j : Byte) (e : Option PendEntry) :
    (s.setPend k e).pendAt j = if j = k then e else s.pendAt j := by
  by_cases h : j = k
  · subst h; simp
  · simp [h, State.pendAt_setPend_other]

/-- A flag after a write of a flag. -/
@[simp] theorem State.flag_setFlag (v : Bool) (g h : ChainFlag) :
    (s.setFlag v g).flag h = if h = g then v else s.flag h := by cases g <;> cases h <;> rfl

end Sys2Proof.Machine
end

