-- ==== Sys2Proof/Laws/Ops.lean ====
section
/-! SUPPORT. One lemma for each shared operation that says once everything it can do. The provers cite these instead of
unfolding the operations. -/

namespace Sys2Proof.Machine

/-! ## Sending -/

/-- Everything a send does when it is silent. -/
theorem State.sendFrame_silent (s : State) (type : Byte) (payload : Bytes) : s.sendFrame type payload true =
    { s with
      seqNext := s.seqNext + 1
      events := s.events ++ [.tx (wireFrame Config.protoVer type s.seqNext payload)]
      seqCollision := s.seqCollision || (s.pendAt s.seqNext).isSome } := rfl

/-- Everything a send does when it registers its request. -/
theorem State.sendFrame_registered (s : State) (type : Byte) (payload : Bytes) : s.sendFrame type payload false =
    { s with
      seqNext := s.seqNext + 1
      pend := s.pend.set s.seqNext.toNat (some { cmd := type, deadline := s.now + Config.timeoutMs }) s.seqNext.isLt
      events := s.events ++ [.tx (wireFrame Config.protoVer type s.seqNext payload)]
      seqCollision := s.seqCollision || (s.pendAt s.seqNext).isSome } := rfl

/-- A send, silent or not. -/
theorem State.sendFrame_eq (s : State) (type : Byte) (payload : Bytes) (silent : Bool) :
    s.sendFrame type payload silent = { s with
      seqNext := s.seqNext + 1
      pend := if silent then s.pend
        else s.pend.set s.seqNext.toNat (some { cmd := type, deadline := s.now + Config.timeoutMs }) s.seqNext.isLt
      events := s.events ++ [.tx (wireFrame Config.protoVer type s.seqNext payload)]
      seqCollision := s.seqCollision || (s.pendAt s.seqNext).isSome } := by cases silent <;> rfl

/-- The pending table after a send. -/
theorem State.pendAt_sendFrame (s : State) (type : Byte) (payload : Bytes) (silent : Bool) (k : Byte) :
    (s.sendFrame type payload silent).pendAt k =
      if silent = false ∧ k = s.seqNext then some { cmd := type, deadline := s.now + Config.timeoutMs }
      else s.pendAt k := by
  cases silent
  · simp only [true_and]
    exact State.pendAt_setPend _ s.seqNext k _
  · simp [State.sendFrame_silent, State.pendAt]

/-- A send operation is refused, or sends. -/
theorem State.sendOp_cases (s : State) (before : State → State) (type : Byte) (payload : Bytes) (silent : Bool) :
    (payload.length ≤ Config.maxPayload ∧ s.sendOp before type payload silent =
      ((before s.start).sendFrame type payload silent).finish (.seq s.seqNext)) ∨
    (Config.maxPayload < payload.length ∧ s.sendOp before type payload silent = s.refuse .payloadTooLong) := by
  unfold State.sendOp payloadTooLong
  by_cases h : Config.maxPayload < payload.length
  · exact .inr ⟨h, by simp [h]⟩
  · exact .inl ⟨Nat.le_of_not_lt h, by simp [h]⟩

/-- A payload that fits is sent. -/
theorem State.sendOp_of_le (s : State) (before : State → State) (type : Byte) {payload : Bytes} (silent : Bool)
    (h : payload.length ≤ Config.maxPayload) : s.sendOp before type payload silent =
      ((before s.start).sendFrame type payload silent).finish (.seq s.seqNext) := by
  rcases s.sendOp_cases before type payload silent with h' | h'
  · exact h'.2
  · omega

/-! ## Resolving and chaining -/

/-- Nothing is pending: nothing happens. -/
theorem State.resolve_none {s : State} {k : Byte} (h : s.pendAt k = none) (status : Status) (sub : Sub)
    (reason : Bytes) : s.resolve k status sub reason = s := by simp [State.resolve, h]

/-- The entry is removed and reported. -/
theorem State.resolve_some {s : State} {k : Byte} {e : PendEntry} (h : s.pendAt k = some e) (status : Status)
    (sub : Sub) (reason : Bytes) : s.resolve k status sub reason = { s with
      pend := s.pend.set k.toNat none k.isLt
      events := s.events ++ [.notify e.cmd k status sub reason] } := by
  simp [State.resolve, h, State.setPend, State.emit]

/-- Everything an answer that may chain does: nothing where it is unmatched; else it resolves, clears the flag, and sends
where the flag was 1. -/
theorem State.resolveAndChain_cases (s : State) (k : Byte) (flag : ChainFlag) (next : Byte) :
    (s.pendAt k = none ∧ s.resolveAndChain k flag next = s) ∨
    (∃ e, s.pendAt k = some e ∧
      ((s.flag flag = false ∧ s.resolveAndChain k flag next = (s.resolve k .ok .none []).setFlag false flag) ∨
       (s.flag flag = true ∧ s.resolveAndChain k flag next =
         ((s.resolve k .ok .none []).setFlag false flag).sendFrame next [] false))) := by
  cases h : s.pendAt k with
  | none => exact .inl ⟨rfl, by simp [State.resolveAndChain, h]⟩
  | some e =>
    refine .inr ⟨e, rfl, ?_⟩
    have hf : (s.resolve k .ok .none []).flag flag = s.flag flag := by
      rw [State.resolve_some h]; cases flag <;> rfl
    cases hv : s.flag flag with
    | false => exact .inl ⟨rfl, by simp [State.resolveAndChain, h, hf, hv]⟩
    | true => exact .inr ⟨rfl, by simp [State.resolveAndChain, h, hf, hv]⟩

/-- A chained send is flagged where its number is pending once the answer's own entry is resolved (log 6). -/
theorem State.resolveAndChain_seqCollision {s : State} {k : Byte} {e : PendEntry} {flag : ChainFlag}
    (h : s.pendAt k = some e) (hf : s.flag flag = true) (next : Byte) :
    (s.resolveAndChain k flag next).seqCollision = true ↔
      s.seqCollision = true ∨ (s.seqNext ≠ k ∧ ∃ e', s.pendAt s.seqNext = some e') := by
  rcases s.resolveAndChain_cases k flag next with ⟨hn, _⟩ | ⟨_, _, ⟨hn, _⟩ | ⟨_, heq⟩⟩
  · rw [h] at hn; cases hn
  · rw [hf] at hn; cases hn
  · rw [heq, State.sendFrame_eq]
    have hp : ((s.resolve k .ok .none []).setFlag false flag).pendAt ((s.resolve k .ok .none []).setFlag false flag).seqNext =
        if s.seqNext = k then none else s.pendAt s.seqNext := by
      rw [State.pendAt_setFlag, State.setFlag_seqNext]
      simp only [State.resolve, h, State.pendAt_emit, State.emit_seqNext, State.setPend_seqNext, State.pendAt_setPend]
    have hc : ((s.resolve k .ok .none []).setFlag false flag).seqCollision = s.seqCollision := by
      rw [State.setFlag_seqCollision, State.resolve_some h]
    simp only [hp, hc, Bool.or_eq_true]
    by_cases hk : s.seqNext = k <;> simp [hk, Option.isSome_iff_exists]

/-- Everything a GetMap answer does. -/
theorem receiveGetmap_cases (f : Frame) (s : State) :
    (s.pendAt f.seq = none ∧ receiveGetmap f s = s) ∨
    (∃ e m, s.pendAt f.seq = some e ∧ cfgDec s.params.kindMacro f.payload s.defMap = .ok m ∧
      receiveGetmap f s = { s with
        work := m, pend := s.pend.set f.seq.toNat none f.seq.isLt
        events := s.events ++ [.notify e.cmd f.seq .ok .none []] ++ [.configUpdated] }) ∨
    (∃ e cls sub, s.pendAt f.seq = some e ∧ cfgDec s.params.kindMacro f.payload s.defMap = .err cls sub ∧
      receiveGetmap f s = s.resolve f.seq cls sub []) := by
  cases h : s.pendAt f.seq with
  | none => exact .inl ⟨rfl, by simp [receiveGetmap, h]⟩
  | some e =>
    cases hd : cfgDec s.params.kindMacro f.payload s.defMap with
    | ok m =>
      have hw : ({ s with work := m } : State).pendAt f.seq = some e := h
      exact .inr (.inl ⟨e, m, rfl, rfl, by simp [receiveGetmap, h, hd, State.resolve_some hw, State.emit]⟩)
    | err cls sub => exact .inr (.inr ⟨e, cls, sub, rfl, rfl, by simp [receiveGetmap, h, hd]⟩)

/-! ## Receiving -/

/-- A byte that is not the terminator. -/
theorem State.rxByte_data (s : State) {b : Byte} (h : b ≠ Config.term) : s.rxByte b = s.accumulate b := by
  simp [State.rxByte, h]

/-- The terminator. -/
theorem State.rxByte_term (s : State) : s.rxByte Config.term = s.closeFrame := by simp [State.rxByte]

/-- Everything the accumulator does with a byte. -/
theorem State.accumulate_cases (s : State) (b : Byte) :
    (s.rxLen < s.params.rxBufCap ∧
      s.accumulate b = { s with rxbuf := s.rxbuf.write s.rxLen b, rxLen := s.rxLen + 1 }) ∨
    (s.params.rxBufCap ≤ s.rxLen ∧ s.accumulate b = { s with rxOvf := true }) := by
  by_cases h : s.rxLen < s.params.rxBufCap
  · exact .inl ⟨h, by simp [State.accumulate, h]⟩
  · exact .inr ⟨Nat.le_of_not_lt h, by simp [State.accumulate, h]⟩

/-- Everything a terminator does. -/
theorem State.closeFrame_cases (s : State) :
    (s.rxOvf = true ∧ s.closeFrame = s.resetAccumulator) ∨
    (s.rxOvf = false ∧ s.closeFrame = s.resetAccumulator.receiveFrame (s.rxbuf.readBytes 0 s.rxLen)) := by
  cases h : s.rxOvf with
  | true => exact .inl ⟨rfl, by simp [State.closeFrame, h]⟩
  | false => exact .inr ⟨rfl, by simp [State.closeFrame, h]⟩

/-- Everything the bytes of a frame do. -/
theorem State.receiveFrame_cases (s : State) (y : Bytes) :
    ((∃ cls sub, cobsDec y = .err cls sub) ∧ s.receiveFrame y = s) ∨
    (∃ d, cobsDec y = .ok d ∧
      ((frameParse d = .tooShort ∧ s.receiveFrame y = s) ∨
       (∃ cls sub k, frameParse d = .fail cls sub k ∧ s.receiveFrame y = s.resolve k cls sub []) ∨
       (∃ f, frameParse d = .ok f ∧ s.receiveFrame y =
         dispatchFrame f.type { ver := f.ver, seq := f.seq, payload := f.payload } s))) := by
  cases h : cobsDec y with
  | err cls sub => exact .inl ⟨⟨cls, sub, rfl⟩, by simp [State.receiveFrame, h]⟩
  | ok d =>
    refine .inr ⟨d, rfl, ?_⟩
    cases hp : frameParse d with
    | tooShort => exact .inl ⟨rfl, by simp [State.receiveFrame, h, hp]⟩
    | fail cls sub k => exact .inr (.inl ⟨cls, sub, k, rfl, by simp [State.receiveFrame, h, hp]⟩)
    | ok f => exact .inr (.inr ⟨f, rfl, by simp [State.receiveFrame, h, hp]⟩)

/-- Everything a frame that passed the checks can do: one of the nine types, or nothing. -/
theorem dispatchFrame_cases (type : Byte) (f : Frame) (s : State) :
    (type = Config.typePing ∧ dispatchFrame type f s = receivePing f s) ∨
    (type = Config.typePong ∧ dispatchFrame type f s = receivePong f s) ∨
    (type = Config.typeGetmap ∧ dispatchFrame type f s = receiveGetmap f s) ∨
    (type = Config.typeSetmap ∧ dispatchFrame type f s = receiveSetmap f s) ∨
    (type = Config.typeSave ∧ dispatchFrame type f s = receiveSave f s) ∨
    (type = Config.typeLoad ∧ dispatchFrame type f s = receiveLoad f s) ∨
    (type = Config.typeResetdefault ∧ dispatchFrame type f s = receiveResetdefault f s) ∨
    (type = Config.typeGetinfo ∧ dispatchFrame type f s = receiveGetinfo f s) ∨
    (type = Config.typeError ∧ dispatchFrame type f s = receiveError f s) ∨
    (type ∉ [Config.typePing, Config.typePong, Config.typeGetmap, Config.typeSetmap, Config.typeSave, Config.typeLoad,
        Config.typeResetdefault, Config.typeGetinfo, Config.typeError] ∧ dispatchFrame type f s = s) := by
  unfold dispatchFrame
  by_cases h1 : type = Config.typePing; · simp [h1]
  by_cases h2 : type = Config.typePong; · subst h2; simp [h1]
  by_cases h3 : type = Config.typeGetmap; · subst h3; simp [h1, h2]
  by_cases h4 : type = Config.typeSetmap; · subst h4; simp [h1, h2, h3]
  by_cases h5 : type = Config.typeSave; · subst h5; simp [h1, h2, h3, h4]
  by_cases h6 : type = Config.typeLoad; · subst h6; simp [h1, h2, h3, h4, h5]
  by_cases h7 : type = Config.typeResetdefault; · subst h7; simp [h1, h2, h3, h4, h5, h6]
  by_cases h8 : type = Config.typeGetinfo; · subst h8; simp [h1, h2, h3, h4, h5, h6, h7]
  by_cases h9 : type = Config.typeError; · subst h9; simp [h1, h2, h3, h4, h5, h6, h7, h8]
  simp [h1, h2, h3, h4, h5, h6, h7, h8, h9]

/-- The received command types, one at a time. -/
theorem dispatchFrame_frameInstr (f : Frame) (s : State) :
    dispatchFrame Config.typePing f s = receivePing f s ∧ dispatchFrame Config.typePong f s = receivePong f s ∧
    dispatchFrame Config.typeGetmap f s = receiveGetmap f s ∧ dispatchFrame Config.typeSetmap f s = receiveSetmap f s ∧
    dispatchFrame Config.typeSave f s = receiveSave f s ∧ dispatchFrame Config.typeLoad f s = receiveLoad f s ∧
    dispatchFrame Config.typeResetdefault f s = receiveResetdefault f s ∧
    dispatchFrame Config.typeGetinfo f s = receiveGetinfo f s ∧ dispatchFrame Config.typeError f s = receiveError f s :=
  ⟨rfl, rfl, rfl, rfl, rfl, rfl, rfl, rfl, rfl⟩

@[simp] theorem State.rxBytes_nil (s : State) : s.rxBytes [] = s := rfl

@[simp] theorem State.rxBytes_cons (s : State) (b : Byte) (x : Bytes) :
    s.rxBytes (b :: x) = (s.rxByte b).rxBytes x := rfl

/-- Received bytes in two parts. -/
theorem State.rxBytes_append (s : State) (x y : Bytes) : s.rxBytes (x ++ y) = (s.rxBytes x).rxBytes y := by
  simp [State.rxBytes, List.foldl_append]

/-- Received bytes stop the machine only where `rx_len` is above the capacity. -/
theorem execRxChunk_of_le {s : State} (x : Bytes) (h : s.rxLen ≤ s.params.rxBufCap) :
    execRxChunk x s = .next (s.start.rxBytes x) := by
  simp [execRxChunk, State.readsOutside, Nat.not_lt.mpr h]

theorem execRxByte_of_le {s : State} (b : Byte) (h : s.rxLen ≤ s.params.rxBufCap) :
    execRxByte b s = .next (s.start.rxByte b) := by
  simp [execRxByte, State.readsOutside, Nat.not_lt.mpr h]

/-- Where received bytes answer a next state, it is the one the rule gives. -/
theorem execRxByte_next {s t : State} {b : Byte} (h : execRxByte b s = .next t) : t = s.start.rxByte b := by
  unfold execRxByte at h
  split at h
  · cases h
  · exact (Host.Outcome.next.inj h).symm

theorem execRxChunk_next {s t : State} {x : Bytes} (h : execRxChunk x s = .next t) : t = s.start.rxBytes x := by
  unfold execRxChunk at h
  split at h
  · cases h
  · exact (Host.Outcome.next.inj h).symm

/-- Bytes that are no terminator and fit go into RXBUF and nowhere else. -/
theorem State.rxBytes_data : ∀ (x : Bytes) (s : State), (∀ b ∈ x, b ≠ Config.term) →
    s.rxLen + x.length ≤ s.params.rxBufCap →
    s.rxBytes x = { s with rxbuf := s.rxbuf.writeBytes s.rxLen x, rxLen := s.rxLen + x.length }
  | [], _, _, _ => rfl
  | b :: x, s, h, hl => by
    simp only [List.length_cons] at hl
    have hb : s.rxByte b = { s with rxbuf := s.rxbuf.write s.rxLen b, rxLen := s.rxLen + 1 } := by
      rw [State.rxByte_data s (h b (by simp))]
      rcases s.accumulate_cases b with hc | hc
      · exact hc.2
      · omega
    rw [State.rxBytes_cons, hb,
      State.rxBytes_data x _ (fun c hc => h c (by simp [hc])) (by simp only; omega)]
    simp only [Memory.writeBytes, List.length_cons, State.mk.injEq, true_and, and_true]
    omega

/-! ## Time -/

/-- The entry of a table that is mapped. -/
theorem keepUnexpired_eq (t : Nat) (e : Option PendEntry) :
    keepUnexpired t e = e.filter fun e => decide (t < e.deadline) := by
  cases e with
  | none => rfl
  | some e =>
    by_cases h : e.deadline ≤ t
    · simp [keepUnexpired, PendEntry.expired, h, Option.filter, Nat.not_lt.mpr h]
    · simp [keepUnexpired, PendEntry.expired, h, Option.filter, Nat.lt_of_not_le h]

/-- Every sequence number is scanned. -/
theorem mem_allSeqs (k : Byte) : k ∈ allSeqs := by
  simp only [allSeqs, List.mem_map, List.mem_range]
  exact ⟨k.toNat, k.isLt, by simp⟩

/-- What a TICK reports: one timeout for each expired entry. -/
theorem State.mem_timeouts (s : State) (t : Nat) (ev : Event) : ev ∈ s.timeouts t ↔
    ∃ (k : Byte) (e : PendEntry), s.pendAt k = some e ∧ e.deadline ≤ t ∧
      ev = .notify e.cmd k .timeoutError .none [] := by
  simp only [State.timeouts, List.mem_filterMap]
  constructor
  · rintro ⟨k, -, hk⟩
    cases he : s.pendAt k with
    | none => simp [he] at hk
    | some e =>
      simp only [he, PendEntry.expired] at hk
      by_cases hd : e.deadline ≤ t
      · simp [hd] at hk
        exact ⟨k, e, he, hd, hk.symm⟩
      · simp [hd] at hk
  · rintro ⟨k, e, he, hd, rfl⟩
    exact ⟨k, mem_allSeqs k, by simp [he, PendEntry.expired, hd]⟩

/-- A TICK is refused, or expires what is due. -/
theorem execTick_cases (t : Nat) (s : State) :
    (t < s.now ∧ execTick t s = .next (s.refuse .timeBackwards)) ∨
    (s.now ≤ t ∧ ∃ u, execTick t s = .next u ∧
      u = { s.start with now := t, pend := u.pend, events := s.timeouts t } ∧
      ∀ k : Byte, u.pendAt k = (s.pendAt k).filter fun e => decide (t < e.deadline)) := by
  by_cases h : t < s.now
  · exact .inl ⟨h, by simp [execTick, h]⟩
  · refine .inr ⟨Nat.le_of_not_lt h, _, by simp only [execTick, h, if_false]; rfl, rfl, fun k => ?_⟩
    simp only [State.pendAt, ← keepUnexpired_eq]
    simp [Vector.getElem_mk]

/-! ## The edit port -/

/-- A cell index names a cell, or is out of range. -/
theorem cellIndex_cases (l r c : Nat) :
    (∃ h : l < 2 ∧ r < 5 ∧ c < 5, cellIndex l r c = some ⟨l * 25 + r * 5 + c, by omega⟩) ∨
    ((2 ≤ l ∨ 5 ≤ r ∨ 5 ≤ c) ∧ cellIndex l r c = none) := by
  by_cases h : l < 2 ∧ r < 5 ∧ c < 5
  · exact .inl ⟨h, by simp [cellIndex, Config.layers, Config.rows, Config.cols, h]⟩
  · refine .inr ⟨by omega, ?_⟩
    exact dif_neg h

/-- Everything CFG.WR can do. -/
theorem execCfgWr_cases (l r c : Nat) (a : Action) (s : State) :
    (∃ why, execCfgWr l r c a s = .next (s.refuse why)) ∨
    (∃ i : Fin 50, cellIndex l r c = some i ∧ isFnPosition r c = false ∧ a.steps.length ≤ Config.macroMax ∧
      execCfgWr l r c a s = .next { s.start with work := s.work.set i.val a i.isLt }) := by
  unfold execCfgWr
  cases h : cellIndex l r c with
  | none => exact .inl ⟨_, rfl⟩
  | some i =>
    by_cases hf : isFnPosition r c = true
    · exact .inl ⟨.fnKeyReserved, by simp [hf]⟩
    · by_cases hm : Config.macroMax < a.steps.length
      · exact .inl ⟨.macroTooLong, by simp [hf, hm]⟩
      · exact .inr ⟨i, rfl, by simpa using hf, Nat.le_of_not_lt hm, by simp [hf, hm]⟩

end Sys2Proof.Machine
end

