-- ==== Sys2Proof/Laws/PerInstr.lean ====
section
/-! SUPPORT. A fact about the encoding of every instruction, one lemma for each: a received frame's bytes end in the
terminator, and an operation's first byte is a selector that names an operation (30_encoding.md R90, R124). -/

namespace Sys2Proof.Laws.EncodedSelector

/-- The encoding of the instruction begins or ends as its port asks. -/
def Statement (i : Instr) : Prop :=
  match (encode i).port with
  | .wire => (encode i).bytes.getLast? = some Config.term
  | .request => ∃ sel ops, (encode i).bytes = sel :: ops ∧ (operandReader sel).isSome = true

/-- Any received frame. -/
theorem received_ends_in_terminator (type : Byte) (f : Frame) : (received type f).bytes.getLast? = some Config.term := by
  simp [received, Machine.wireFrame]

theorem ping (f : Frame) : Statement (.ping f) := received_ends_in_terminator _ f
theorem pong (f : Frame) : Statement (.pong f) := received_ends_in_terminator _ f
theorem getmap (f : Frame) : Statement (.getmap f) := received_ends_in_terminator _ f
theorem setmap (f : Frame) : Statement (.setmap f) := received_ends_in_terminator _ f
theorem save (f : Frame) : Statement (.save f) := received_ends_in_terminator _ f
theorem load (f : Frame) : Statement (.load f) := received_ends_in_terminator _ f
theorem resetdefault (f : Frame) : Statement (.resetdefault f) := received_ends_in_terminator _ f
theorem getinfo (f : Frame) : Statement (.getinfo f) := received_ends_in_terminator _ f
theorem error (f : Frame) : Statement (.error f) := received_ends_in_terminator _ f
theorem crcInit : Statement .crcInit := ⟨_, _, rfl, rfl⟩
theorem crcUpd (b : Byte) : Statement (.crcUpd b) := ⟨_, _, rfl, rfl⟩
theorem crcGet : Statement .crcGet := ⟨_, _, rfl, rfl⟩
theorem crcBuf (x : Bytes) : Statement (.crcBuf x) := ⟨_, _, rfl, rfl⟩
theorem cobsEnc (x : Bytes) : Statement (.cobsEnc x) := ⟨_, _, rfl, rfl⟩
theorem cobsDec (y : Bytes) : Statement (.cobsDec y) := ⟨_, _, rfl, rfl⟩
theorem frameBuild (type seq : Byte) (payload : Bytes) : Statement (.frameBuild type seq payload) := ⟨_, _, rfl, rfl⟩
theorem frameEnc (type seq : Byte) (payload : Bytes) : Statement (.frameEnc type seq payload) := ⟨_, _, rfl, rfl⟩
theorem send (type : Byte) (payload : Bytes) (silent : Bool) : Statement (.send type payload silent) := ⟨_, _, rfl, rfl⟩
theorem rxByte (b : Byte) : Statement (.rxByte b) := ⟨_, _, rfl, rfl⟩
theorem rxChunk (x : Bytes) : Statement (.rxChunk x) := ⟨_, _, rfl, rfl⟩
theorem frameParse (d : Bytes) : Statement (.frameParse d) := ⟨_, _, rfl, rfl⟩
theorem tick (t : Nat) : Statement (.tick t) := ⟨_, _, rfl, rfl⟩
theorem reqPing : Statement .reqPing := ⟨_, _, rfl, rfl⟩
theorem reqGetmap : Statement .reqGetmap := ⟨_, _, rfl, rfl⟩
theorem reqSetmap (save : Bool) : Statement (.reqSetmap save) := ⟨_, _, rfl, rfl⟩
theorem reqSave : Statement .reqSave := ⟨_, _, rfl, rfl⟩
theorem reqLoad (fetch : Bool) : Statement (.reqLoad fetch) := ⟨_, _, rfl, rfl⟩
theorem reqResetdefault (fetch : Bool) : Statement (.reqResetdefault fetch) := ⟨_, _, rfl, rfl⟩
theorem reqGetinfo : Statement .reqGetinfo := ⟨_, _, rfl, rfl⟩
theorem actEq (a b : Action) : Statement (.actEq a b) := ⟨_, _, rfl, rfl⟩
theorem cfgEnc : Statement .cfgEnc := ⟨_, _, rfl, rfl⟩
theorem cfgDec (p : Bytes) : Statement (.cfgDec p) := ⟨_, _, rfl, rfl⟩
theorem cfgRd (l r c : Nat) : Statement (.cfgRd l r c) := ⟨_, _, rfl, rfl⟩
theorem cfgWr (l r c : Nat) (a : Action) : Statement (.cfgWr l r c a) := ⟨_, _, rfl, rfl⟩
theorem reset : Statement .reset := ⟨_, _, rfl, rfl⟩

end Sys2Proof.Laws.EncodedSelector
end

