-- ==== Sys2Proof/Laws/Segments.lean ====
section
/-! SUPPORT. What the cut of a byte sequence at its zeros, and the groups of a segment, do on one more byte, one more run
and one more full group (41_cobs.md R163, R165, R166). -/

namespace Sys2Proof.Machine

@[simp] theorem zeroFreeSegments_nil : zeroFreeSegments [] = [[]] := rfl

@[simp] theorem zeroFreeSegments_zero (x : Bytes) : zeroFreeSegments (0 :: x) = [] :: zeroFreeSegments x := by
  simp [zeroFreeSegments]

/-- There is always a first segment. -/
theorem zeroFreeSegments_cases (x : Bytes) : ∃ m ms, zeroFreeSegments x = m :: ms := by
  cases x with
  | nil => exact ⟨_, _, rfl⟩
  | cons b x =>
    unfold zeroFreeSegments
    split
    · exact ⟨_, _, rfl⟩
    · split <;> exact ⟨_, _, rfl⟩

/-- A zero-free run in front lengthens the first segment. -/
theorem zeroFreeSegments_append {x m : Bytes} {ms : List Bytes} (h : zeroFreeSegments x = m :: ms) :
    ∀ {run : Bytes}, (∀ b ∈ run, b ≠ 0) → zeroFreeSegments (run ++ x) = (run ++ m) :: ms
  | [], _ => h
  | b :: run, hr => by
    have hb : b ≠ 0 := hr b (.head _)
    have ih := zeroFreeSegments_append h fun c hc => hr c (.tail _ hc)
    simp only [List.cons_append, zeroFreeSegments, if_neg hb, ih]

/-- The segments hold the input's bytes but for its zeros, one fewer than there are segments (41_cobs.md R166). -/
theorem zeroFreeSegments_length (x : Bytes) :
    ((zeroFreeSegments x).map List.length).sum + (zeroFreeSegments x).length = x.length + 1 := by
  induction x with
  | nil => rfl
  | cons b x ih =>
    obtain ⟨m, ms, h⟩ := zeroFreeSegments_cases x
    by_cases hb : b = 0
    · subst hb
      simp only [zeroFreeSegments_zero, List.map_cons, List.sum_cons, List.length_cons, List.length_nil]
      omega
    · have := zeroFreeSegments_append h (run := [b]) fun c hc => by rw [List.mem_singleton.1 hc]; exact hb
      rw [List.singleton_append] at this
      rw [h] at ih
      rw [this]
      simp only [List.map_cons, List.sum_cons, List.length_cons, List.length_append, List.length_nil] at ih ⊢
      omega

/-- No segment holds a zero. -/
theorem zeroFreeSegments_no_zero {x m : Bytes} (hm : m ∈ zeroFreeSegments x) : ∀ b ∈ m, b ≠ 0 := by
  induction x generalizing m with
  | nil => rw [List.mem_singleton.1 hm]; exact fun b hb => by cases hb
  | cons c x ih =>
    obtain ⟨m₀, ms, h⟩ := zeroFreeSegments_cases x
    by_cases hc : c = 0
    · subst hc
      rw [zeroFreeSegments_zero] at hm
      rcases List.mem_cons.1 hm with rfl | hm
      · exact fun b hb => by cases hb
      · exact ih hm
    · have := zeroFreeSegments_append h (run := [c]) fun d hd => by rw [List.mem_singleton.1 hd]; exact hc
      rw [List.singleton_append] at this
      rw [this] at hm
      rw [h] at ih
      rcases List.mem_cons.1 hm with rfl | hm
      · intro b hb
        rcases List.mem_cons.1 hb with rfl | hb
        · exact hc
        · exact ih (.head _) b hb
      · exact ih (.tail _ hm)

/-- A segment of fewer than 254 bytes is one group. -/
theorem segmentGroups_short {m : Bytes} (h : m.length < 254) : segmentGroups m = [m] := by
  simp [segmentGroups, Nat.div_eq_of_lt h]

/-- A full group in front of a segment is one group more (41_cobs.md R165). -/
theorem segmentGroups_full {g : Bytes} (hg : g.length = 254) (m : Bytes) :
    segmentGroups (g ++ m) = g :: segmentGroups m := by
  have hd : (254 + m.length) / 254 = m.length / 254 + 1 := by omega
  have hdrop : ∀ i, (g ++ m).drop (254 * (i + 1)) = m.drop (254 * i) := fun i => by
    rw [show 254 * (i + 1) = g.length + 254 * i by omega, List.drop_append]
    simp
  simp only [segmentGroups, List.length_append, hg, hd, List.range_succ_eq_map, List.map_cons, List.map_map, hdrop,
    Nat.mul_zero, List.drop_zero, List.cons_append]
  congr 1
  · rw [← hg, List.take_left']
    rfl
  · congr 1
    exact List.map_congr_left fun i _ => by simp only [Function.comp, Nat.succ_eq_add_one, hdrop]

/-- A segment has a group for each full 254 bytes and one more. -/
theorem segmentGroups_length (m : Bytes) : (segmentGroups m).length = m.length / 254 + 1 := by simp [segmentGroups]

end Sys2Proof.Machine
end

