-- ==== Sys2Proof/Tests/Slice0.lean ====
section
/-! SUPPORT. Tests and witnesses. Expected values are those of 95_test_vectors.md (the vector's name stands in the
comment) or are calculated by hand from the cited rule. -/

set_option Elab.async false

namespace Sys2Proof.Tests

open Sys2Proof.Machine

/-- The blank default keymap `T0` of 95_test_vectors.md. -/
def T0 : Keymap := Vector.replicate 50 default

/-- The state after reset with default `T0`. -/
def S0 : State := { State.reset with defMap := T0, work := T0 }

/-- An action with one key byte. -/
def act (kind mask key : Byte) (steps : List MacroStep := []) : Action :=
  { kind := kind, mask := mask, keys := #v[key, 0, 0, 0, 0, 0], steps := steps }

def macroStep (op mask key : Byte) (delay : Half) : MacroStep :=
  { op := op, mask := mask, keys := #v[key, 0, 0, 0, 0, 0], delay := delay }

/-- A pending entry on top of a state. -/
def pending (s : State) (k cmd : Byte) (deadline : Nat) : State := s.setPend k (some { cmd := cmd, deadline := deadline })

/-- A state whose accumulator holds the bytes `y`. -/
def holding (s : State) (y : Bytes) : State := { s with rxbuf := Memory.writeBytes [] 0 y, rxLen := y.length }

/-- The next state has the property. -/
def after (o : Host.Outcome State Fault Refusal) (p : State → Bool) : Bool :=
  match o with
  | .next t => p t
  | _ => false

/-- The state after some operations; the start where one of them stops. -/
def run (is : List Instr) (s : State) : State :=
  match runAll is s with
  | .next t => t
  | _ => s

def wire (x : Bytes) : Issue := { port := .wire, bytes := x }

def req (x : Bytes) : Issue := { port := .request, bytes := x }

def decodesTo (q : Issue) (i : Instr) : Bool :=
  match decode q with
  | .ok j => decide (j = i)
  | .error _ => false

/-! ## Well-formedness -/

/-- A frame with a payload of `n` bytes. -/
def longFrame (n : Nat) : Frame := { ver := 1, seq := 0, payload := List.replicate n 0 }

theorem longFrame_wellFormed (n : Nat) : (longFrame n).wellFormed = decide (n ≤ 65535) := by
  simp [longFrame, Frame.wellFormed, Config.maxPayload]

/-- A payload one byte too long for the 16-bit length field, in each instruction that the check is made for. -/
theorem test_wellFormed_refuses_long_payload :
    ∀ i ∈ [Instr.ping (longFrame 65536), .pong (longFrame 65536), .getmap (longFrame 65536), .setmap (longFrame 65536),
      .save (longFrame 65536), .load (longFrame 65536), .resetdefault (longFrame 65536), .getinfo (longFrame 65536),
      .error (longFrame 65536)], i.wellFormed = false := by
  simp [Instr.wellFormed, longFrame_wellFormed]

theorem test_wellFormed_accepts_longest_payload : (Instr.error (longFrame 65535)).wellFormed = true := by
  simp [Instr.wellFormed, longFrame_wellFormed]

/-! ## Decoding -/

/-- The frames D2, D22, D5, D13, D8, D11, D12, D20 and D15: one of each received command type. -/
theorem test_decode_frames :
    decodesTo (wire [4, 0xA5, 1, 0x01, 1, 1, 3, 0xE9, 0xCD, 0]) (.ping ⟨1, 0, []⟩) ∧
    decodesTo (wire [4, 0xA5, 1, 0x02, 1, 1, 3, 0x35, 0x56, 0]) (.pong ⟨1, 0, []⟩) ∧
    decodesTo (wire [4, 0xA5, 1, 0x10, 1, 1, 3, 0xFA, 0xA0, 0]) (.getmap ⟨1, 0, []⟩) ∧
    decodesTo (wire [4, 0xA5, 1, 0x11, 1, 1, 3, 0x4E, 0xD6, 0]) (.setmap ⟨1, 0, []⟩) ∧
    decodesTo (wire [4, 0xA5, 1, 0x12, 1, 1, 3, 0x92, 0x4D, 0]) (.save ⟨1, 0, []⟩) ∧
    decodesTo (wire [4, 0xA5, 1, 0x13, 1, 1, 3, 0x26, 0x3B, 0]) (.load ⟨1, 0, []⟩) ∧
    decodesTo (wire [4, 0xA5, 1, 0x14, 1, 1, 3, 0x0B, 0x6A, 0]) (.resetdefault ⟨1, 0, []⟩) ∧
    decodesTo (wire [4, 0xA5, 1, 0x15, 2, 3, 2, 1, 4, 7, 0x34, 0x91, 0]) (.getinfo ⟨1, 0, [1, 0, 7]⟩) ∧
    decodesTo (wire [6, 0xA5, 1, 0x7F, 5, 3, 6, 0x62, 0x61, 0x64, 0x84, 0x34, 0]) (.error ⟨1, 5, [0x62, 0x61, 0x64]⟩) := by
  decide +kernel

/-- A reserved type (D21), a wrong CRC and two frames in one are no instruction. -/
theorem test_decode_refuses_frames :
    decode (wire [4, 0xA5, 1, 0x20, 1, 1, 3, 0x13, 0x8C, 0]) = .error (.reservedType 0x20) ∧
    decode (wire [4, 0xA5, 1, 0x12, 1, 1, 3, 0x93, 0x4D, 0]) = .error (.invalidFrame .integrityError .badCrc) ∧
    decode (wire [1, 0, 1, 0]) = .error .severalFrames := by
  decide +kernel

/-- The selectors 0x00 to 0x3F of 30_encoding.md R124; the operand bytes are those of log 2. -/
theorem test_decode_codec_operations :
    decodesTo (req [0x00]) .crcInit ∧ decodesTo (req [0x01, 0x31]) (.crcUpd 0x31) ∧ decodesTo (req [0x02]) .crcGet ∧
    decodesTo (req [0x03, 1, 0x31, 1, 0x32, 0]) (.crcBuf [0x31, 0x32]) ∧
    decodesTo (req [0x10, 1, 0, 0]) (.cobsEnc [0]) ∧ decodesTo (req [0x11, 1, 1, 0]) (.cobsDec [1]) ∧
    decodesTo (req [0x20, 0x15, 7, 1, 9, 0]) (.frameBuild 0x15 7 [9]) ∧
    decodesTo (req [0x21, 0x15, 7, 1, 9, 0]) (.frameEnc 0x15 7 [9]) ∧
    decodesTo (req [0x22, 0x15, 1, 9, 0, 1]) (.send 0x15 [9] true) ∧
    decodesTo (req [0x30, 0xA5]) (.rxByte 0xA5) ∧ decodesTo (req [0x31, 1, 4, 1, 0xA5, 0]) (.rxChunk [4, 0xA5]) ∧
    decodesTo (req [0x32, 1, 0xA5, 0]) (.frameParse [0xA5]) := by
  decide +kernel

/-- The selectors 0x40 to 0x70 of 30_encoding.md R124; the operand bytes are those of log 2, and 5000 is 0x1388. -/
theorem test_decode_session_and_config_operations :
    decodesTo (req [0x40, 1, 0x88, 1, 0x13, 0]) (.tick 5000) ∧ decodesTo (req [0x41]) .reqPing ∧
    decodesTo (req [0x42]) .reqGetmap ∧ decodesTo (req [0x43, 1]) (.reqSetmap true) ∧ decodesTo (req [0x44]) .reqSave ∧
    decodesTo (req [0x45, 1]) (.reqLoad true) ∧ decodesTo (req [0x46, 0]) (.reqResetdefault false) ∧
    decodesTo (req [0x47]) .reqGetinfo ∧
    decodesTo (req ([0x50] ++ [1, 2, 4, 0, 0, 0, 0, 0, 0] ++ [3, 0, 0, 0, 0, 0, 0, 0, 1, 2, 0, 0, 0, 0, 0, 0, 0, 0x2C, 1, 0]))
      (.actEq (act 1 2 4) (act 3 0 0 [macroStep 2 0 0 300])) ∧
    decodesTo (req [0x51]) .cfgEnc ∧ decodesTo (req [0x52, 1, 3, 0]) (.cfgDec [3]) ∧
    decodesTo (req [0x53, 1, 1, 0, 1, 4, 0, 0]) (.cfgRd 1 4 0) ∧
    decodesTo (req [0x54, 0, 1, 1, 0, 1, 2, 0, 1, 2, 4, 0, 0, 0, 0, 0, 0]) (.cfgWr 0 1 2 (act 1 2 4)) ∧
    decodesTo (req [0x70]) .reset := by
  decide +kernel

theorem test_decode_refuses_requests :
    decode (req [0x60]) = .error .unassignedOpsel ∧ decode (req [0x43, 2]) = .error .badOperands ∧
    decode (req [0x01]) = .error .badOperands ∧ decode (req []) = .error .empty := by
  decide +kernel

/-- Words of spec/opcode_table.json: SEND with zero operands, and the header of D20 with a payload of zeros. -/
theorem test_table_words :
    decodeTableWord 8 0x22 = some (.send 0 [] false) ∧
    decodeTableWord 40 0x0115000300 = some (.getinfo ⟨1, 0, [0, 0, 0]⟩) ∧ decodeTableWord 8 0x60 = none ∧
    after (step (S0.withFetchWord 8 0x41)) (fun t => t.seqNext == 1) = true := by
  decide +kernel

/-! ## Operations -/

/-- 95 section 2.1: the register after the first two bytes of the check sequence, and after CRC.INIT. -/
theorem test_crcUpd : (run [.crcUpd 0x31] S0).crcAcc = 0xC782 ∧ (run [.crcUpd 0x31, .crcUpd 0x32] S0).crcAcc = 0x3DBA := by
  decide +kernel

theorem test_crcInit_crcGet :
    (run [.crcUpd 0x31, .crcInit] S0).crcAcc = 0xFFFF ∧ (run [.crcUpd 0x31, .crcGet] S0).result = .word 0xC782 := by
  decide +kernel

/-- A2, A6, A9. -/
theorem test_crcBuf : crc16 [0] = 0xE1F0 ∧ crc16 [0, 0] = 0x1D0F ∧
    (run [.crcBuf [1, 0x15, 0, 0, 0]] S0).result = .word 0x1CBF := by
  decide +kernel

/-- B5, B9, B14. -/
theorem test_cobsEnc : (run [.cobsEnc [0x11, 0x22, 0, 0x33]] S0).result = .bytes [3, 0x11, 0x22, 2, 0x33] ∧
    cobsEnc (List.replicate 254 0xAA) = 0xFF :: List.replicate 254 0xAA ++ [1] ∧
    cobsEnc (List.replicate 253 0xAA ++ [0]) = 0xFE :: List.replicate 253 0xAA ++ [1] := by
  decide +kernel

/-- B6, B9, B13: the groups that the statement CobsOutputZeroFreeAndBounded compares COBS.ENC with. -/
theorem test_segmentGroups :
    cobsGroups ((zeroFreeSegments [0x11, 0, 0, 0]).flatMap segmentGroups) = [2, 0x11, 1, 1, 1] ∧
    cobsGroups ((zeroFreeSegments (List.replicate 254 0xAA)).flatMap segmentGroups) =
      0xFF :: List.replicate 254 0xAA ++ [1] ∧
    cobsGroups ((zeroFreeSegments (List.replicate 254 0xAA ++ [0])).flatMap segmentGroups) =
      0xFF :: List.replicate 254 0xAA ++ [1, 1] := by
  decide +kernel

/-- C3, C6, C9, C11. -/
theorem test_cobsDec : (run [.cobsDec [0]] S0).result = .error .framingError .zeroCode ∧
    (run [.cobsDec [5, 1, 2]] S0).result = .error .framingError .runTruncated ∧ cobsDec [3, 0, 0x11] = .ok [0, 0x11] ∧
    cobsDec (0xFF :: List.replicate 254 0xAA) = .ok (List.replicate 254 0xAA) := by
  decide +kernel

/-- D10, D18. -/
theorem test_frameBuild_frameEnc :
    (run [.frameBuild 0x12 0xFF []] S0).result = .bytes [0xA5, 1, 0x12, 0xFF, 0, 0, 0xF1, 0x82] ∧
    (run [.frameEnc 0x11 3 [0, 0, 0]] S0).result = .bytes [6, 0xA5, 1, 0x11, 3, 3, 1, 1, 1, 3, 0xC5, 0xD9, 0] := by
  decide +kernel

/-- D9: SEND numbers the frame with the counter; silent registers nothing. -/
theorem test_send : let t := run [.send 0x12 [] true] { S0 with seqNext := 1 }
    t.events = [.tx [5, 0xA5, 1, 0x12, 1, 1, 3, 0xA2, 0x7A, 0]] ∧ t.seqNext = 2 ∧ t.pendAt 1 = none := by
  decide +kernel

theorem test_send_wraps_and_registers : let t := run [.send 0x12 [] false] { S0 with seqNext := 0xFF, now := 7 }
    t.seqNext = 0 ∧ t.result = .seq 0xFF ∧ t.pendAt 0xFF = some ⟨0x12, 5007⟩ := by
  decide +kernel

/-- 42_frame_tx.md R189: REQ.SAVE onto a pending entry; a chained Save onto another pending entry, and onto the number of
the entry that its answer has just resolved. -/
theorem test_seqCollision : let s := { pending (pending S0 0 0x11 5000) 1 0x13 5000 with saveAfterWrite := true }
    (run [.reqSave] s).seqCollision = true ∧ (run [.setmap ⟨1, 1, []⟩] s).seqCollision = true ∧
    (run [.setmap ⟨1, 0, []⟩] s).seqCollision = false := by
  decide +kernel

/-- F7: a full accumulator condemns the frame. -/
theorem test_rxByte_overflow :
    let s := { holding S0 [4, 0xA5, 1, 0x12] with params := { Params.default with rxBufCap := 4 } }
    (run [.rxByte 1] s).rxOvf = true ∧ (run [.rxByte 1] s).rxLen = 4 ∧ (run [.rxByte 1, .rxByte 0] s).rxLen = 0 ∧
      (run [.rxByte 1, .rxByte 0] s).rxOvf = false := by
  decide +kernel

/-- F2, F14. -/
theorem test_rxChunk : let s := pending S0 0 0x15 5000
    (run [.rxChunk [4, 0xA5, 1, 0x15]] s).rxLen = 4 ∧
    (run [.rxChunk [4, 0xA5, 1, 0x15], .rxChunk [1, 1, 3, 0xBF, 0x1C, 0]] s).events = [.notify 0x15 0 .ok .none []] ∧
    (run [.rxChunk [4, 0xA5, 1, 0x12, 0, 1, 3, 0x92, 0x4D, 0]] s).events = [] := by
  decide +kernel

/-- E2, E3, E5, E6. -/
theorem test_frameParse : frameParse [0xA5, 1, 0x15, 0, 0, 0, 0xBF, 0x1D] = .fail .integrityError .badCrc 0 ∧
    frameParse [0xA4, 1, 0x12, 0, 0, 0, 0x92, 0x4D] = .fail .formatError .badSync 0 ∧
    frameParse [0xA5, 1, 0x12, 0, 0, 0, 0x92, 0x4D, 0x77] = .fail .formatError .badLength 0 ∧
    frameParse [0xA5, 1, 0x15, 0, 0, 0, 0xBF] = .tooShort := by
  decide +kernel

/-- G9, G10. -/
theorem test_tick : let s := pending (pending (pending S0 0 0x12 5000) 1 0x13 5010) 3 0x15 5020
    (run [.tick 5009] s).events = [.notify 0x12 0 .timeoutError .none []] ∧
    (run [.tick 5009, .tick 5020] s).events =
      [.notify 0x13 1 .timeoutError .none [], .notify 0x15 3 .timeoutError .none []] := by
  decide +kernel

/-- G1 to G5, G7: the frames D2, D5, D8, D11, D12, D1. -/
theorem test_requests :
    (run [.reqPing] S0).events = [.tx [4, 0xA5, 1, 0x01, 1, 1, 3, 0xE9, 0xCD, 0]] ∧
    (run [.reqGetmap] S0).events = [.tx [4, 0xA5, 1, 0x10, 1, 1, 3, 0xFA, 0xA0, 0]] ∧
    (run [.reqSave] S0).events = [.tx [4, 0xA5, 1, 0x12, 1, 1, 3, 0x92, 0x4D, 0]] ∧
    (run [.reqLoad true] S0).events = [.tx [4, 0xA5, 1, 0x13, 1, 1, 3, 0x26, 0x3B, 0]] ∧
    (run [.reqResetdefault false] S0).events = [.tx [4, 0xA5, 1, 0x14, 1, 1, 3, 0x0B, 0x6A, 0]] ∧
    (run [.reqGetinfo] S0).events = [.tx [4, 0xA5, 1, 0x15, 1, 1, 3, 0xBF, 0x1C, 0]] := by
  decide +kernel

/-- G1 to G5, G7: entries and flags. -/
theorem test_requests_register :
    (run [.reqPing] S0).pendAt 0 = none ∧ (run [.reqGetmap] S0).pendAt 0 = some ⟨0x10, 5000⟩ ∧
    (run [.reqSave] S0).pendAt 0 = some ⟨0x12, 5000⟩ ∧ (run [.reqLoad true] S0).fetchAfterLoad = true ∧
    (run [.reqResetdefault false] S0).fetchAfterReset = false ∧ (run [.reqGetinfo] S0).pendAt 0 = some ⟨0x15, 5000⟩ := by
  decide +kernel

/-- G6: the frame D19. -/
theorem test_reqSetmap : (run [.reqSetmap false] S0).events =
    [.tx [4, 0xA5, 1, 0x11, 2, 9, 5, 3, 5, 5, 2, 1, 1, 5, 0x72, 0xA4, 0x53, 0xF7, 0]] ∧
    (run [.reqSetmap false] S0).pendAt 0 = some ⟨0x11, 5000⟩ ∧ (run [.reqSetmap true] S0).saveAfterWrite = true := by
  decide +kernel

/-- F10: a Pong resolves nothing; a Ping neither. -/
theorem test_ping_pong : let s := pending S0 0 0x15 5000
    (run [.pong ⟨1, 0, []⟩] s).pendAt 0 = some ⟨0x15, 5000⟩ ∧ (run [.ping ⟨1, 0, []⟩] s).events = [] := by
  decide +kernel

/-- P1 step 6: the answer's map, one cell apart from the default. -/
theorem test_getmap :
    let t := run [.getmap ⟨1, 1, [3, 5, 5, 2, 0, 1, 0, 0, 0, 0, 1, 2, 4, 0, 0, 0, 0, 0, 0, 0xD6, 0x0C]⟩]
      (pending S0 1 0x10 5100)
    t.events = [.notify 0x10 1 .ok .none [], .configUpdated] ∧ t.work = T0.set 0 (act 1 2 4) := by
  decide +kernel

/-- F12: configuration version 4. -/
theorem test_getmap_fails : let t := run [.getmap ⟨1, 1, [4, 5, 5, 2, 0, 0, 0, 0x36, 0xBD]⟩] (pending S0 1 0x10 5000)
    t.events = [.notify 0x10 1 .formatError .badHeader []] ∧ t.work = T0 := by
  decide +kernel

/-- F8: the SetMap-typed answer of a Save request, with the flag set. -/
theorem test_setmap_chains :
    let t := run [.setmap ⟨1, 0, []⟩] { pending S0 0 0x12 5000 with saveAfterWrite := true, seqNext := 1 }
    t.events = [.notify 0x12 0 .ok .none [], .tx [5, 0xA5, 1, 0x12, 1, 1, 3, 0xA2, 0x7A, 0]] ∧
      t.saveAfterWrite = false ∧ t.pendAt 1 = some ⟨0x12, 5000⟩ := by
  decide +kernel

/-- 43_frame_rx.md R216, R217 with the flag: the frame D6, an entry of type 0x10. -/
theorem test_load_resetdefault_chain : let s := { pending S0 0 0x13 5000 with
      fetchAfterLoad := true, fetchAfterReset := true, seqNext := 1 }
    (run [.load ⟨1, 0, []⟩] s).events =
      [.notify 0x13 0 .ok .none [], .tx [5, 0xA5, 1, 0x10, 1, 1, 3, 0xCA, 0x97, 0]] ∧
    (run [.resetdefault ⟨1, 0, []⟩] s).pendAt 1 = some ⟨0x10, 5000⟩ := by
  decide +kernel

/-- F1, F3, and a Save answer. -/
theorem test_save_getinfo : let s := pending S0 0 0x15 5000
    (run [.getinfo ⟨1, 0, [1, 0, 7]⟩] s).events = [.notify 0x15 0 .ok .none []] ∧
    (run [.save ⟨1, 0, []⟩] s).pendAt 0 = none := by
  decide +kernel

/-- F9: an Error frame that matches nothing clears the flags all the same. -/
theorem test_error : let s := { pending S0 0 0x13 5000 with fetchAfterLoad := true }
    (run [.error ⟨1, 9, []⟩] s).fetchAfterLoad = false ∧ (run [.error ⟨1, 9, []⟩] s).events = [] ∧
    (run [.error ⟨1, 0, [0x66]⟩] s).events = [.notify 0x13 0 .deviceError .none [0x66]] := by
  decide +kernel

/-- 95 section 2.6, action equality. -/
theorem test_actEq : actEq 3 (act 1 0 5) (act 1 0 5 [default]) = true ∧ actEq 3 (act 3 0 5) (act 3 0 5 [default]) = false ∧
    actEq 3 (act 1 0 5) (act 2 0 5) = false ∧
    actEq 3 (act 3 0 0 [macroStep 0 1 4 0]) (act 3 0 0 [macroStep 0 1 4 1]) = false := by
  decide +kernel

/-- K3. -/
theorem test_cfgEnc : cfgEnc 3 ((T0.set 0 (act 1 2 4)).set 38
      (act 3 0 0 [macroStep 0 1 4 0, macroStep 2 0 0 300, macroStep 1 1 4 0])) T0 =
    [3, 5, 5, 2, 0, 2, 0, 0, 0, 0, 1, 2, 4, 0, 0, 0, 0, 0, 0, 1, 2, 3, 3, 0, 0, 0, 0, 0, 0, 0, 3,
     0, 1, 4, 0, 0, 0, 0, 0, 0, 0, 2, 0, 0, 0, 0, 0, 0, 0, 0x2C, 1, 1, 1, 4, 0, 0, 0, 0, 0, 0, 0, 0xB0, 0x7B] := by
  decide +kernel

/-- K5. -/
theorem test_cfgEnc_skips_fn_cell :
    (run [.cfgEnc] { S0 with work := T0.set 22 (act 1 0 9) }).result = .bytes [3, 5, 5, 2, 0, 0, 0, 0x72, 0xA4] := by
  decide +kernel

/-- K18: the later of two entries for a cell. -/
theorem test_cfgDec : cfgDec 3 [3, 5, 5, 2, 0, 2, 0, 0, 0, 0, 1, 0, 9, 0, 0, 0, 0, 0, 0, 0, 0, 0, 2, 1, 8, 0, 0, 0, 0, 0, 0,
    9, 0xE4] T0 = .ok (T0.set 0 (act 2 1 8)) := by
  decide +kernel

/-- K15, K16. -/
theorem test_cfgDec_fails :
    cfgDec 3 [3, 5, 5, 2, 0, 1, 0, 0, 0, 0, 1, 0, 0, 0, 0, 0, 0, 0, 1, 0x97, 0x52] T0 = .err .formatError .nonMacroLen ∧
    cfgDec 3 [3, 5, 5, 2, 0, 1, 0, 0, 0, 0, 3, 0, 0, 0, 0, 0, 0, 0, 0x11, 0xC1, 0x86] T0 =
      .err .formatError .macroTooLong := by
  decide +kernel

/-- 45_config_codec.md R299, R300: a bad index in the first of 3 counted entries with no byte behind it, and one entry where
3 are counted. -/
theorem test_cfgDec_first_failure :
    let bad : Bytes := [2, 0, 0, 1, 0, 0, 0, 0, 0, 0, 0, 0]
    let good : Bytes := [0, 0, 0, 1, 0, 9, 0, 0, 0, 0, 0, 0]
    cfgDec 3 (cfgPayload 0 3 bad) T0 = .err .formatError .badIndex ∧
    cfgDec 3 (cfgPayload 0 3 (bad ++ good ++ good)) T0 = .err .formatError .badIndex ∧
    cfgDec 3 (cfgPayload 0 3 good) T0 = .err .formatError .truncated := by
  decide +kernel

/-- K9, and a read of what was written. -/
theorem test_cfgWr_cfgRd :
    (run [.cfgWr 1 4 2 (act 1 0 9)] S0).result = .refused .fnKeyReserved ∧
    (run [.cfgWr 1 4 2 (act 1 0 9)] S0).work = T0 ∧
    (run [.cfgWr 1 2 3 (act 1 0 9), .cfgRd 1 2 3] S0).result = .action (act 1 0 9) ∧
    (run [.cfgRd 2 0 0] S0).result = .refused .badIndex := by
  decide +kernel

/-- 70_reset_and_hazards.md R360. -/
theorem test_reset : let t := run [.crcUpd 1, .tick 9, .reqLoad true, .rxByte 5, .cfgWr 0 0 0 (act 1 0 9), .reset] S0
    t = { S0 with rxbuf := [(0, 5)], result := .unit } := by
  decide +kernel

/-! ## Witnesses: for every statement of Obligations.lean with hypotheses, values that meet them, at the boundaries of
each clause -/

theorem exists_next {o : Host.Outcome State Fault Refusal} (h : after o (fun _ => true) = true) : ∃ t, o = .next t := by
  cases o with
  | next t => exact ⟨t, rfl⟩
  | fault r => cases h
  | refused r => cases h

theorem T0_valid : keymapValid T0 := fun i => by simp [T0, show (default : Action).steps = [] from rfl]

theorem witness_StreamingCrcEqualsBufferCrc :
    (∀ i ∈ [Instr.crcUpd 0x31, .reqPing, .crcUpd 0x32, .rxByte 7], i ≠ .crcInit ∧ i ≠ .reset) ∧
    ∃ t, runAll [.crcInit, .crcUpd 0x31, .reqPing, .crcUpd 0x32, .rxByte 7] S0 = .next t :=
  ⟨by simp, exists_next (by decide +kernel)⟩

theorem witness_OneChangedByteChangesCrc : (0x00 : Byte) ≠ 0x80 := by decide

/-- The longest group and the empty one; a code byte one above what is left. -/
theorem witness_CobsDecodesGroups :
    (∀ g ∈ [List.replicate 254 (0 : Byte), []], g.length ≤ 254) ∧ ([] : Bytes).length + 1 < (2 : Byte).toNat ∧
      (List.replicate 253 (1 : Byte)).length + 1 < (0xFF : Byte).toNat := by
  simp only [List.length_replicate, List.mem_cons, List.not_mem_nil, or_false]
  refine ⟨?_, by decide, by decide⟩
  rintro g (rfl | rfl)
  · exact List.length_replicate.le
  · exact Nat.zero_le _

/-- For FrameBuildLayout, FrameParseInvertsBuild, WireFrameEndsInItsOnlyZero and SendNumbersEmitsAndRegisters: the shortest
and the longest payload. -/
theorem witness_payload_that_fits :
    ([] : Bytes).length ≤ 65535 ∧ (List.replicate 65535 (0 : Byte)).length ≤ 65535 := by
  rw [List.length_replicate]; exact ⟨by decide, by decide⟩

theorem witness_TooLongPayloadRefused : 65535 < (List.replicate 65536 (0 : Byte)).length := by
  rw [List.length_replicate]; decide

/-- A payload and a keymap that fit; a number that is pending and one that is not; an answer to an entry, with the flags 1,
where the next number is that entry's own, where it is another pending one, and where it is free. -/
theorem witness_SendOntoPendingEntryIsFlagged :
    ([] : Bytes).length ≤ 65535 ∧ keymapValid S0.work ∧ S0.pendAt S0.seqNext = none ∧
    let s : State := { pending (pending S0 0 0x12 5000) 1 0x13 5000 with
      saveAfterWrite := true, fetchAfterLoad := true, fetchAfterReset := true }
    let f : Frame := ⟨1, 0, []⟩
    s.pendAt s.seqNext = some ⟨0x12, 5000⟩ ∧ s.pendAt f.seq = some ⟨0x12, 5000⟩ ∧ s.saveAfterWrite = true ∧
    s.fetchAfterLoad = true ∧ s.fetchAfterReset = true ∧ s.seqNext = f.seq ∧ s.pendAt 1 = some ⟨0x13, 5000⟩ ∧
    s.pendAt 2 = none :=
  ⟨by decide, T0_valid, by decide +kernel, by decide +kernel⟩

theorem witness_SetmapRequestSendsTheDiff : keymapValid S0.work := T0_valid

/-- For TickExpiresExactlyDueEntries and TimeoutExactlyAtDeadline: no time passes, the last moment before a deadline, and
the deadline. -/
theorem witness_TickForward : S0.now ≤ 0 ∧ (S0.now ≤ 4999 ∧ 4999 < S0.now + 5000) ∧ (S0.now ≤ 5000 ∧ S0.now + 5000 ≤ 5000) ∧
    (pending S0 0 0x12 5000).pendAt 0 = some ⟨0x12, 5000⟩ := by
  decide +kernel

theorem witness_TickBackwardsRefused : 7 < ({ S0 with now := 8 } : State).now := by decide

/-- The last free place. -/
theorem witness_RxByteAppends : let s : State := { S0 with rxLen := 65801 }
    (1 : Byte) ≠ 0 ∧ s.rxLen < s.params.rxBufCap := by
  decide +kernel

theorem witness_OverflowDropsTheFrame : let s : State := { S0 with rxLen := 65802, rxOvf := true }
    s.rxLen = s.params.rxBufCap ∧ (1 : Byte) ≠ 0 ∧ s.rxOvf = true := by
  decide +kernel

theorem witness_TerminatorEmptiesAccumulator : let s : State := { S0 with rxLen := 65802 }
    s.rxLen ≤ s.params.rxBufCap := by
  decide +kernel

/-- A code byte that asks for more than there is, and a full accumulator that overflowed. -/
theorem witness_FramingErrorDropsTheFrame : let s := holding S0 [2]
    let t : State := { S0 with rxLen := 65802, rxOvf := true }
    (s.rxLen ≤ s.params.rxBufCap ∧ cobsDec (s.rxbuf.readBytes 0 s.rxLen) = .err .framingError .runTruncated) ∧
    t.rxLen ≤ t.params.rxBufCap ∧ t.rxOvf = true := by
  decide +kernel

/-- Seven decoded bytes; the bytes of E3, E5 and of D8 with a wrong CRC on the wire, the entry pending and not. -/
theorem witness_FailedCheckResolvesPendingRequest :
    let t := holding S0 [8, 1, 1, 1, 1, 1, 1, 1]
    let holds (y d : Bytes) (sub : Sub) (cls : Status) : Bool :=
      let s := holding S0 y
      decide (s.rxLen ≤ s.params.rxBufCap) && !s.rxOvf && decide (cobsDec (s.rxbuf.readBytes 0 s.rxLen) = .ok d) &&
        decide (frameParse d = .fail cls sub 0) && (s.pendAt 0).isNone && ((pending s 0 0x12 5000).pendAt 0).isSome
    (t.rxLen ≤ t.params.rxBufCap ∧ t.rxOvf = false ∧
      cobsDec (t.rxbuf.readBytes 0 t.rxLen) = .ok [1, 1, 1, 1, 1, 1, 1]) ∧
    holds [4, 0xA4, 1, 0x12, 1, 1, 3, 0x92, 0x4D] [0xA4, 1, 0x12, 0, 0, 0, 0x92, 0x4D] .badSync .formatError ∧
    holds [4, 0xA5, 1, 0x12, 1, 1, 4, 0x92, 0x4D, 0x77] [0xA5, 1, 0x12, 0, 0, 0, 0x92, 0x4D, 0x77] .badLength .formatError ∧
    holds [4, 0xA5, 1, 0x12, 1, 1, 3, 0x93, 0x4D] [0xA5, 1, 0x12, 0, 0, 0, 0x93, 0x4D] .badCrc .integrityError := by
  decide +kernel

/-- D8, and the reserved type of D21. -/
theorem witness_ValidFrameRunsItsInstruction :
    let holds (y d : Bytes) (f : ParsedFrame) : Bool :=
      let s := holding S0 y
      decide (s.rxLen ≤ s.params.rxBufCap) && !s.rxOvf && decide (cobsDec (s.rxbuf.readBytes 0 s.rxLen) = .ok d) &&
        decide (frameParse d = .ok f)
    holds [4, 0xA5, 1, 0x12, 1, 1, 3, 0x92, 0x4D] [0xA5, 1, 0x12, 0, 0, 0, 0x92, 0x4D] ⟨1, 0x12, 0, 0, []⟩ ∧
    holds [4, 0xA5, 1, 0x20, 1, 1, 3, 0x13, 0x8C] [0xA5, 1, 0x20, 0, 0, 0, 0x13, 0x8C] ⟨1, 0x20, 0, 0, []⟩ ∧
    (0x20 : Byte) ∉ ([0x01, 0x02, 0x10, 0x11, 0x12, 0x13, 0x14, 0x15, 0x7F] : List Byte) := by
  decide +kernel

/-- E6, E3, E5, E2, E1, each cut as the clause cuts it. -/
theorem witness_FrameParseChecksInOrder :
    ([0xA5, 1, 0x15, 0, 0, 0, 0xBF] : Bytes).length < 8 ∧
    (2 ≤ ([0x92, 0x4D] : Bytes).length ∧ (0xA4 : Byte) ≠ 0xA5) ∧
    ([0x92, 0x4D, 0x77] : Bytes).length ≠ (0 : Byte).toNat + 256 * (0 : Byte).toNat + 2 ∧
    ([] : Bytes).length = (0 : Byte).toNat + 256 * (0 : Byte).toNat ∧
    (0x1D : Byte) ++ (0xBF : Byte) ≠ crc16 ([1, 0x15, 0, 0, 0] ++ []) ∧
    (0x1C : Byte) ++ (0xBF : Byte) = crc16 ([1, 0x15, 0, 0, 0] ++ []) := by
  decide +kernel

theorem witness_ChunkingHasNoEffect : S0.rxLen ≤ S0.params.rxBufCap := by decide

/-- A frame that just fits the accumulator. -/
theorem witness_WireFrameThroughRxRunsItsInstruction :
    let s : State := { S0 with params := { Params.default with rxBufCap := 9 } }
    isReceived (.ping ⟨1, 0, []⟩) ∧ (Instr.ping ⟨1, 0, []⟩).wellFormed = true ∧ s.rxLen = 0 ∧ s.rxOvf = false ∧
      (encode (.ping ⟨1, 0, []⟩)).bytes.length = s.params.rxBufCap + 1 :=
  ⟨rfl, rfl, rfl, rfl, by decide +kernel⟩

/-- The first, the fourth and the last byte. -/
theorem witness_OneChangedByteFailsTheFrame : ([] : Bytes).length ≤ 65535 ∧
    (∃ t, exec (.frameBuild 0x15 0 []) S0 = .next t ∧ t.result = .bytes [0xA5, 1, 0x15, 0, 0, 0, 0xBF, 0x1C]) ∧
    ∀ i ∈ [0, 3, 7], i < ([0xA5, 1, 0x15, 0, 0, 0, 0xBF, 0x1C] : Bytes).length ∧
      ([0xA5, 1, 0x15, 0, 0, 0, 0xBF, 0x1C] : Bytes)[i]? ≠ some 0x55 :=
  ⟨by decide, ⟨_, rfl, by decide +kernel⟩, by decide⟩

/-- For UnmatchedAnswersHaveNoEffect, SaveAndGetinfoAnswersResolveTheirRequest, ChainableAnswersResolveAndChain and
ErrorFrameClearsFlagsAndFails: no entry, and an entry with the flags 0 and with the flags 1. -/
theorem witness_Answers : let s := pending S0 0 0x12 5000
    let t := { s with saveAfterWrite := true, fetchAfterLoad := true, fetchAfterReset := true }
    S0.pendAt 0 = none ∧ s.pendAt 0 = some ⟨0x12, 5000⟩ ∧
    (s.saveAfterWrite = false ∧ s.fetchAfterLoad = false ∧ s.fetchAfterReset = false) ∧
    t.pendAt 0 = some ⟨0x12, 5000⟩ ∧ t.saveAfterWrite = true ∧ t.fetchAfterLoad = true ∧ t.fetchAfterReset = true := by
  decide +kernel

/-- No entry; K1 and K6 as payloads of a matched answer. -/
theorem witness_GetmapAnswerReplacesWorkOrFails : let s := pending S0 0 0x10 5000
    S0.pendAt 0 = none ∧ s.pendAt 0 = some ⟨0x10, 5000⟩ ∧
    cfgDec s.params.kindMacro [3, 5, 5, 2, 0, 0, 0, 0x72, 0xA4] s.defMap = .ok T0 ∧
    cfgDec s.params.kindMacro [3, 5, 5, 2, 0, 0, 0, 0x72] s.defMap = .err .formatError .truncated := by
  decide +kernel

theorem witness_SaveAfterWriteFiresExactlyOnce :
    keymapValid S0.work ∧ (∃ t, exec (.reqSetmap true) S0 = .next t) ∧ (⟨1, 0, []⟩ : Frame).seq = S0.seqNext :=
  ⟨T0_valid, exists_next (by decide +kernel), rfl⟩

/-- Two Macro actions that differ, and two others that do not. -/
theorem witness_ActEqComparesWhatTheRuleNames :
    (act 3 0 5).kind = S0.params.kindMacro ∧ (act 1 0 5).kind ≠ S0.params.kindMacro := by decide

/-- For CfgEncScansLayersRowsColumns, CfgEncEmptyDiffAndBound and ConfigRoundTrip. -/
theorem witness_CfgEnc : keymapValid S0.work ∧ S0.work = S0.defMap ∧
    ∀ l < 2, actEq S0.params.kindMacro (cellAt S0.work l 4 2) (cellAt S0.defMap l 4 2) = true :=
  ⟨T0_valid, rfl, by decide +kernel⟩

/-- Eight bytes; a header with a wrong fourth byte (K7 has a wrong first one); K8. -/
theorem witness_CfgDecChecksBeforeEntries :
    ([3, 5, 5, 2, 0, 0, 0, 0x72] : Bytes).length < 9 ∧ 5 ≤ ([0, 0, 0, 0x72, 0xA4] : Bytes).length ∧
    ([3, 5, 5, 3] : Bytes) ≠ [3, 5, 5, 2] ∧ ([4, 5, 5, 2] : Bytes) ≠ [3, 5, 5, 2] ∧
    (0xA5 : Byte) ++ (0x72 : Byte) ≠ crc16 ([3, 5, 5, 2] ++ [0, 0, 0]) := by
  decide +kernel

/-- A cell named twice, the Fn-key cell among them, with no step and with 16. -/
theorem witness_CfgDecAppliesEntriesInOrder :
    let es : List (Fin 50 × Action) := [(22, act 1 0 9), (49, act 3 0 0 (List.replicate 16 default)), (22, act 9 0xF3 9)]
    es.length ≤ 65535 ∧ ∀ p ∈ es, entryLegal S0.params.kindMacro p := by
  simp only [List.mem_cons, List.not_mem_nil, or_false, forall_eq_or_imp, forall_eq, entryLegal]
  decide +kernel

/-- No entry before the failing one; the least and the greatest count; 11 bytes where 12 are needed; each index just out of
range; a macro of 17, one of 16 with 159 bytes, a Chord with a length of 1. -/
theorem witness_CfgDecEntryFailures : ([] : List (Fin 50 × Action)).length ≤ 65535 ∧
    (∀ p ∈ ([] : List (Fin 50 × Action)), entryLegal S0.params.kindMacro p) ∧ ([0xEE] : Bytes) ≠ [] ∧
    (([] : List (Fin 50 × Action)).length < 1 ∧ 1 ≤ 65535) ∧ (([] : List (Fin 50 × Action)).length < 65535 ∧ 65535 ≤ 65535) ∧
    (List.replicate 11 (0 : Byte)).length < 12 ∧ 2 ≤ (2 : Byte).toNat ∧ 5 ≤ (5 : Byte).toNat ∧
    ((1 : Byte).toNat < 2 ∧ (4 : Byte).toNat < 5) ∧
    ((3 : Byte) = S0.params.kindMacro ∧ 16 < (17 : Byte).toNat) ∧
    ((16 : Byte).toNat ≤ 16 ∧ (List.replicate 159 (0 : Byte)).length < 10 * (16 : Byte).toNat) ∧
    (2 : Byte) ≠ S0.params.kindMacro ∧ (1 : Byte) ≠ 0 := by
  refine ⟨by decide, by simp, ?_⟩
  decide +kernel

/-- For CfgRdReturnsTheCell and CfgWrStoresOneCellOrRefuses: the last cell, each index just out of range, both Fn-key
cells, and macros of 16 and of 17 steps. -/
theorem witness_CfgRd_CfgWr : (1 < 2 ∧ 4 < 5 ∧ ¬(4 = 4 ∧ 4 = 2)) ∧ (2 ≤ 2 ∨ 5 ≤ 0 ∨ 5 ≤ 0) ∧ (2 ≤ 0 ∨ 5 ≤ 5 ∨ 5 ≤ 0) ∧
    (2 ≤ 0 ∨ 5 ≤ 0 ∨ 5 ≤ 5) ∧ (0 < 2 ∧ 4 = 4 ∧ 2 = 2) ∧
    (act 3 0 0 (List.replicate 16 default)).steps.length ≤ 16 ∧ 16 < (act 3 0 0 (List.replicate 17 default)).steps.length := by
  decide +kernel

/-- A state with the invariants, bytes in the accumulator, an entry pending and an operation issued. -/
theorem witness_EveryStepCompletesAndKeepsInvariant :
    State.Inv { pending (holding S0 [4, 0xA5]) 0 0x12 5000 with inbox := [wire [1, 0]] } where
  rxbuf_wf := by decide +kernel
  rxbuf_inside := by decide +kernel
  rxLen_le := by decide +kernel
  rxOvf_full := by decide +kernel
  rxbuf_no_term := by decide +kernel
  deadlines := by
    intro k e h
    have h' : (if k = 0 then some { cmd := 0x12, deadline := 5000 } else S0.pendAt k) = some e := by
      rw [← State.pendAt_setPend]; exact h
    by_cases hk : k = 0
    · rw [if_pos hk] at h'; cases h'; decide
    · rw [if_neg hk] at h'
      have : S0.pendAt k = none := by simp [State.pendAt, S0, State.reset]
      rw [this] at h'; cases h'
  work_valid := T0_valid
  defMap_valid := T0_valid

theorem witness_DecodeInvertsEncode : (Instr.ping (longFrame 65535)).wellFormed = true ∧
    (Instr.tick 5000).wellFormed = true :=
  ⟨by simp [Instr.wellFormed, longFrame_wellFormed], rfl⟩

/-- D2 on the wire port, with an accumulator that it just fits, and REQ.PING on the request port; for WirePortIsRxChunk
also. -/
theorem witness_StepRunsTheDecodedInstruction :
    let q := wire [4, 0xA5, 1, 0x01, 1, 1, 3, 0xE9, 0xCD, 0]
    let s : State := { S0 with inbox := [q], params := { Params.default with rxBufCap := 9 } }
    let t : State := { S0 with inbox := [req [0x41]] }
    (s.inbox = q :: [] ∧ decodesTo q (.ping ⟨1, 0, []⟩) ∧ q.port = .wire ∧ s.rxLen = 0 ∧ s.rxOvf = false ∧
      q.bytes.length = s.params.rxBufCap + 1) ∧
    t.inbox = req [0x41] :: [] ∧ decodesTo (req [0x41]) .reqPing ∧ (req [0x41]).port = .request := by
  decide +kernel

theorem witness_UnassignedSelectorsRefused : ({ S0 with inbox := [req [0x60]] } : State).inbox = req [0x60] :: [] ∧
    S0.inbox = [] ∧ (0x60 : Byte) ∉ ([0x00, 0x01, 0x02, 0x03, 0x10, 0x11, 0x20, 0x21, 0x22, 0x30, 0x31, 0x32, 0x40, 0x41,
      0x42, 0x43, 0x44, 0x45, 0x46, 0x47, 0x50, 0x51, 0x52, 0x53, 0x54, 0x70] : List Byte) := by
  decide

/-- For OnlyTheOwnersWriteState: steps that do write each of the fields. -/
theorem witness_OnlyTheOwnersWriteState :
    (∃ t, exec (.crcUpd 1) S0 = .next t ∧ t.crcAcc ≠ S0.crcAcc) ∧ (∃ t, exec (.tick 9) S0 = .next t ∧ t.now ≠ S0.now) ∧
    (∃ t, exec (.cfgWr 0 0 0 (act 1 0 9)) S0 = .next t ∧ t.work ≠ S0.work) ∧
    ∃ t, exec (.rxByte 5) S0 = .next t ∧ t.rxbuf ≠ S0.rxbuf :=
  ⟨⟨_, rfl, by decide +kernel⟩, ⟨_, rfl, by decide +kernel⟩, ⟨_, rfl, by decide +kernel⟩, _, rfl, by decide +kernel⟩

/-- For CounterAndFlagsHaveTheirWriters and EventsPerOperation: steps that set each flag and send a frame. -/
theorem witness_CounterAndFlagsHaveTheirWriters :
    let sets (i : Instr) (flag : State → Bool) : Bool := !flag S0 && after (exec i S0) fun t => flag t && countTx t.events == 1
    Instr.reqPing ≠ .reset ∧ sets (.reqSetmap true) (·.saveAfterWrite) ∧ sets (.reqLoad true) (·.fetchAfterLoad) ∧
      sets (.reqResetdefault true) (·.fetchAfterReset) := by
  decide +kernel

/-- Two states that differ in a byte of RXBUF at `rx_len`, and an operation that reads RXBUF. -/
theorem witness_DeadRxbufBytesUnobservable :
    let s := holding S0 [4, 0xA5]
    sameButDeadRxbuf s { s with rxbuf := s.rxbuf ++ [(2, 7)] } ∧ ∃ t, exec (.rxByte 0) s = .next t :=
  ⟨⟨rfl, by decide +kernel⟩, exists_next (by decide +kernel)⟩

end Sys2Proof.Tests
end

namespace Sys2Proof.Machine

/-! ## The accumulator as a part of the state

The session, the codecs and the CRC port neither read nor write RXBUF, `rx_len` and `rx_ovf` (10_state.md R25): each of
their operations commutes with exchanging the three. From this follow both that they leave RXBUF as it is and that they
cannot observe it. -/

/-- The state with another accumulator. -/
def State.withAccumulator (s : State) (m : Memory) (n : Nat) (o : Bool) : State :=
  { s with rxbuf := m, rxLen := n, rxOvf := o }

/-- The operation neither reads nor writes the accumulator. -/
def IgnoresAccumulator (f : State → State) : Prop :=
  ∀ (s : State) (m : Memory) (n : Nat) (o : Bool), f (s.withAccumulator m n o) = (f s).withAccumulator m n o

namespace IgnoresAccumulator

theorem keeps_accumulator {f : State → State} (hf : IgnoresAccumulator f) (s : State) :
    (f s).rxbuf = s.rxbuf ∧ (f s).rxLen = s.rxLen ∧ (f s).rxOvf = s.rxOvf := by
  have h : f s = (f s).withAccumulator s.rxbuf s.rxLen s.rxOvf := hf s s.rxbuf s.rxLen s.rxOvf
  rw [h]
  exact ⟨rfl, rfl, rfl⟩

theorem comp {f g : State → State} (hf : IgnoresAccumulator f) (hg : IgnoresAccumulator g) :
    IgnoresAccumulator fun s => f (g s) := fun s m n o =>
  (congrArg f (hg s m n o)).trans (hf (g s) m n o)

theorem identity : IgnoresAccumulator id := fun _ _ _ _ => rfl

theorem start : IgnoresAccumulator State.start := fun _ _ _ _ => rfl

theorem emit (e : Event) : IgnoresAccumulator fun s => s.emit e := fun _ _ _ _ => rfl

theorem clearFlags : IgnoresAccumulator State.clearFlags := fun _ _ _ _ => rfl

theorem setFlag (v : Bool) (g : ChainFlag) : IgnoresAccumulator fun s => s.setFlag v g := by
  cases g <;> exact fun _ _ _ _ => rfl

theorem requestFlag (g : ChainFlag) (bit : Bool) : IgnoresAccumulator fun s => s.requestFlag g bit := by
  cases bit with
  | false => exact identity
  | true => exact setFlag true g

/-- An operation that answers a result computed from the rest of the state. -/
theorem answer {r : State → Result} (hr : ∀ s m n o, r (s.withAccumulator m n o) = r s) :
    IgnoresAccumulator fun s => s.start.finish (r s) := fun s m n o =>
  congrArg (State.finish (s.start.withAccumulator m n o)) (hr s m n o)

theorem sendFrame (type : Byte) (payload : Bytes) (silent : Bool) :
    IgnoresAccumulator fun s => s.sendFrame type payload silent := by
  cases silent <;> exact fun _ _ _ _ => rfl

/-- A send whose payload is computed from the rest of the state. -/
theorem sendOp {before : State → State} (hb : IgnoresAccumulator before) (type : Byte) {payload : State → Bytes}
    (hp : ∀ s m n o, payload (s.withAccumulator m n o) = payload s) (silent : Bool) :
    IgnoresAccumulator fun s => s.sendOp before type (payload s) silent := fun s m n o => by
  simp only [hp]
  unfold State.sendOp
  split
  · rfl
  · exact congrArg (State.finish · (.seq s.seqNext))
      (((sendFrame type (payload s) silent).comp (hb.comp start)) s m n o)

theorem resolve (k : Byte) (status : Status) (sub : Sub) (reason : Bytes) :
    IgnoresAccumulator fun s => s.resolve k status sub reason := fun s m n o => by
  have hk : (s.withAccumulator m n o).pendAt k = s.pendAt k := rfl
  cases h : s.pendAt k with
  | none => simp only [State.resolve_none h, State.resolve_none (hk.trans h)]
  | some e => simp only [State.resolve_some h, State.resolve_some (hk.trans h)]; rfl

theorem resolveAndChain (k : Byte) (flag : ChainFlag) (next : Byte) :
    IgnoresAccumulator fun s => s.resolveAndChain k flag next := fun s m n o => by
  have hk : (s.withAccumulator m n o).pendAt k = s.pendAt k := rfl
  have hr := resolve k .ok .none [] s m n o
  have hf : ∀ u : State, (u.withAccumulator m n o).flag flag = u.flag flag := fun u => by cases flag <;> rfl
  simp only [State.resolveAndChain, hk, hr, hf]
  cases s.pendAt k with
  | none => rfl
  | some e =>
    cases (s.resolve k .ok .none []).flag flag with
    | false => exact setFlag false flag _ m n o
    | true => exact (sendFrame next [] false).comp (setFlag false flag) _ m n o

theorem receiveGetmap (f : Frame) : IgnoresAccumulator (Machine.receiveGetmap f) := fun s m n o => by
  have hk : (s.withAccumulator m n o).pendAt f.seq = s.pendAt f.seq := rfl
  have hd : cfgDec (s.withAccumulator m n o).params.kindMacro f.payload (s.withAccumulator m n o).defMap =
      cfgDec s.params.kindMacro f.payload s.defMap := rfl
  simp only [Machine.receiveGetmap, hk, hd]
  cases s.pendAt f.seq with
  | none => rfl
  | some e =>
    cases cfgDec s.params.kindMacro f.payload s.defMap with
    | ok w => exact (emit .configUpdated).comp (resolve f.seq .ok .none []) { s with work := w } m n o
    | err cls sub => exact resolve f.seq cls sub [] s m n o

theorem receiveError (f : Frame) : IgnoresAccumulator (Machine.receiveError f) :=
  (resolve f.seq .deviceError .none f.payload).comp clearFlags

theorem dispatchFrame (type : Byte) (f : Frame) : IgnoresAccumulator (Machine.dispatchFrame type f) := fun s m n o => by
  unfold Machine.dispatchFrame
  split_ifs
  · rfl
  · rfl
  · exact receiveGetmap f s m n o
  · exact resolveAndChain f.seq .saveAfterWrite Config.typeSave s m n o
  · exact resolve f.seq .ok .none [] s m n o
  · exact resolveAndChain f.seq .fetchAfterLoad Config.typeGetmap s m n o
  · exact resolveAndChain f.seq .fetchAfterReset Config.typeGetmap s m n o
  · exact resolve f.seq .ok .none [] s m n o
  · exact receiveError f s m n o
  · rfl

/-- The bytes of a frame are handed over; what they do once they are, the accumulator has no part in. -/
theorem receiveFrame (y : Bytes) : IgnoresAccumulator fun s => s.receiveFrame y := fun s m n o => by
  unfold State.receiveFrame
  cases cobsDec y with
  | err cls sub => rfl
  | ok d =>
    dsimp only
    cases frameParse d with
    | tooShort => rfl
    | fail cls sub k => exact resolve k cls sub [] s m n o
    | ok f => exact dispatchFrame f.type _ s m n o

end IgnoresAccumulator

/-- The three operations that work on the accumulator: two receive into it, one empties it. -/
def usesAccumulator : Instr → Bool
  | .rxByte _ => true
  | .rxChunk _ => true
  | .reset => true
  | _ => false

/-- Every other operation completes and ignores the accumulator. -/
theorem exec_ignoresAccumulator {i : Instr} (hi : usesAccumulator i = false) :
    ∃ f, IgnoresAccumulator f ∧ ∀ s, exec i s = .next (f s) := by
  have session {f : State → State} (hf : IgnoresAccumulator f) : IgnoresAccumulator fun s => f s.start :=
    hf.comp .start
  cases i with
  | ping f | pong f => exact ⟨_, .start, fun _ => rfl⟩
  | getmap f => exact ⟨_, session (.receiveGetmap f), fun _ => rfl⟩
  | setmap f | load f | resetdefault f => exact ⟨_, session (.resolveAndChain f.seq _ _), fun _ => rfl⟩
  | save f | getinfo f => exact ⟨_, session (.resolve f.seq .ok .none []), fun _ => rfl⟩
  | error f => exact ⟨_, session (.receiveError f), fun _ => rfl⟩
  | crcInit | crcUpd b => exact ⟨_, fun _ _ _ _ => rfl, fun _ => rfl⟩
  | crcGet | crcBuf x | cobsEnc x | cobsDec y | frameParse d | actEq a b | cfgEnc | cfgDec p =>
    exact ⟨_, .answer fun _ _ _ _ => rfl, fun _ => rfl⟩
  | frameBuild type seq payload | frameEnc type seq payload =>
    refine ⟨_, fun s m n o => ?_, fun _ => rfl⟩
    split <;> rfl
  | send type payload silent => exact ⟨_, .sendOp .identity type (fun _ _ _ _ => rfl) silent, fun _ => rfl⟩
  | reqPing => exact ⟨_, .sendOp .identity _ (fun _ _ _ _ => rfl) true, fun _ => rfl⟩
  | reqGetmap | reqSave | reqGetinfo => exact ⟨_, .sendOp .identity _ (fun _ _ _ _ => rfl) false, fun _ => rfl⟩
  | reqSetmap bit | reqLoad bit | reqResetdefault bit =>
    exact ⟨_, .sendOp (.requestFlag _ bit) _ (fun _ _ _ _ => rfl) false, fun _ => rfl⟩
  | tick t =>
    refine ⟨_, fun s m n o => ?_, fun _ => rfl⟩
    by_cases h : t < s.now
    · simp only [State.withAccumulator, h, if_true]; rfl
    · simp only [State.withAccumulator, h, if_false]; rfl
  | cfgRd l r c =>
    refine ⟨_, fun s m n o => ?_, fun _ => rfl⟩
    cases cellIndex l r c <;> rfl
  | cfgWr l r c a =>
    refine ⟨_, fun s m n o => ?_, fun _ => rfl⟩
    cases cellIndex l r c with
    | none => rfl
    | some k => dsimp only; split_ifs <;> rfl
  | rxByte b | rxChunk x | reset => cases hi

/-! ## Two states that differ in the dead bytes of RXBUF -/

/-- The second state is the first with another RXBUF that reads the same below `rx_len`. -/
theorem sameButDeadRxbuf_iff {s t : State} : sameButDeadRxbuf s t ↔
    ∃ m : Memory, t = s.withAccumulator m s.rxLen s.rxOvf ∧ ∀ a < s.rxLen, m.read a = s.rxbuf.read a := by
  constructor
  · rintro ⟨ht, hread⟩
    exact ⟨t.rxbuf, ht, hread⟩
  · rintro ⟨m, rfl, hread⟩
    exact ⟨rfl, hread⟩

theorem IgnoresAccumulator.keeps_sameButDeadRxbuf {f : State → State} (hf : IgnoresAccumulator f) {s t : State}
    (h : sameButDeadRxbuf s t) : sameButDeadRxbuf (f s) (f t) := by
  obtain ⟨m, rfl, hread⟩ := sameButDeadRxbuf_iff.mp h
  obtain ⟨hbuf, hlen, hovf⟩ := hf.keeps_accumulator s
  refine sameButDeadRxbuf_iff.mpr ⟨m, ?_, ?_⟩
  · rw [hf s, hlen, hovf]
  · rw [hbuf, hlen]; exact hread

theorem resetAccumulator_keeps_sameButDeadRxbuf {s t : State} (h : sameButDeadRxbuf s t) :
    sameButDeadRxbuf s.resetAccumulator t.resetAccumulator := by
  obtain ⟨m, rfl, -⟩ := sameButDeadRxbuf_iff.mp h
  exact sameButDeadRxbuf_iff.mpr ⟨m, rfl, fun a ha => absurd ha (Nat.not_lt_zero a)⟩

/-- A byte kept is written at `rx_len` in both, whatever was there; the terminator, which an unlisted index reads as, is
never kept. -/
theorem accumulate_keeps_sameButDeadRxbuf {s t : State} (h : sameButDeadRxbuf s t) {b : Byte} (hb : b ≠ Config.term) :
    sameButDeadRxbuf (s.accumulate b) (t.accumulate b) := by
  obtain ⟨m, rfl, hread⟩ := sameButDeadRxbuf_iff.mp h
  rw [sameButDeadRxbuf_iff]
  by_cases hroom : s.rxLen < s.params.rxBufCap
  · have hs : s.accumulate b = s.withAccumulator (s.rxbuf.write s.rxLen b) (s.rxLen + 1) s.rxOvf := if_pos hroom
    have ht : (s.withAccumulator m s.rxLen s.rxOvf).accumulate b =
      s.withAccumulator (m.write s.rxLen b) (s.rxLen + 1) s.rxOvf := if_pos hroom
    rw [hs, ht]
    refine ⟨m.write s.rxLen b, rfl, fun a (ha : a < s.rxLen + 1) => ?_⟩
    change (m.write s.rxLen b).read a = (s.rxbuf.write s.rxLen b).read a
    by_cases hat : a = s.rxLen
    · rw [hat, Memory.read_write_same _ hb, Memory.read_write_same _ hb]
    · rw [Memory.read_write_other b hat, Memory.read_write_other b hat, hread a (by omega)]
  · have hs : s.accumulate b = s.withAccumulator s.rxbuf s.rxLen true := if_neg hroom
    have ht : (s.withAccumulator m s.rxLen s.rxOvf).accumulate b = s.withAccumulator m s.rxLen true := if_neg hroom
    rw [hs, ht]
    exact ⟨m, rfl, hread⟩

/-- A terminator reads RXBUF below `rx_len` only. -/
theorem closeFrame_keeps_sameButDeadRxbuf {s t : State} (h : sameButDeadRxbuf s t) :
    sameButDeadRxbuf s.closeFrame t.closeFrame := by
  have hreset := resetAccumulator_keeps_sameButDeadRxbuf h
  obtain ⟨m, rfl, hread⟩ := sameButDeadRxbuf_iff.mp h
  have hbytes : m.readBytes 0 s.rxLen = s.rxbuf.readBytes 0 s.rxLen :=
    Memory.readBytes_congr m s.rxbuf s.rxLen 0 fun a ha => by simpa using hread a ha
  have ht : (s.withAccumulator m s.rxLen s.rxOvf).closeFrame =
      if s.rxOvf then (s.withAccumulator m s.rxLen s.rxOvf).resetAccumulator
      else (s.withAccumulator m s.rxLen s.rxOvf).resetAccumulator.receiveFrame (m.readBytes 0 s.rxLen) := rfl
  rw [ht, hbytes, State.closeFrame]
  cases s.rxOvf with
  | true => exact hreset
  | false => exact (IgnoresAccumulator.receiveFrame _).keeps_sameButDeadRxbuf hreset

theorem rxByte_keeps_sameButDeadRxbuf {s t : State} (h : sameButDeadRxbuf s t) (b : Byte) :
    sameButDeadRxbuf (s.rxByte b) (t.rxByte b) := by
  by_cases hb : b = Config.term
  · subst hb
    simpa only [State.rxByte_term] using closeFrame_keeps_sameButDeadRxbuf h
  · simpa only [State.rxByte_data _ hb] using accumulate_keeps_sameButDeadRxbuf h hb

theorem rxBytes_keeps_sameButDeadRxbuf : ∀ (x : Bytes) {s t : State}, sameButDeadRxbuf s t →
    sameButDeadRxbuf (s.rxBytes x) (t.rxBytes x)
  | [], _, _, h => h
  | b :: x, _, _, h => rxBytes_keeps_sameButDeadRxbuf x (rxByte_keeps_sameButDeadRxbuf h b)

theorem readsOutside_of_sameButDeadRxbuf {s t : State} (h : sameButDeadRxbuf s t) (x : Bytes) :
    t.readsOutside x = s.readsOutside x := by
  obtain ⟨m, rfl, -⟩ := sameButDeadRxbuf_iff.mp h
  rfl

/-- RX.CHUNK, and RX.BYTE as the chunk of its one byte. -/
theorem rxChunk_keeps_sameButDeadRxbuf {s t s' : State} (h : sameButDeadRxbuf s t) (x : Bytes)
    (hs : execRxChunk x s = .next s') : ∃ t', execRxChunk x t = .next t' ∧ sameButDeadRxbuf s' t' := by
  unfold execRxChunk at hs ⊢
  rw [readsOutside_of_sameButDeadRxbuf h]
  cases hout : s.readsOutside x with
  | true => simp [hout] at hs
  | false =>
    obtain rfl : s.start.rxBytes x = s' := by simpa [hout] using hs
    exact ⟨_, rfl, rxBytes_keeps_sameButDeadRxbuf x (IgnoresAccumulator.start.keeps_sameButDeadRxbuf h)⟩

/-- Settles O60: all but three operations ignore the accumulator, RX.BYTE and RX.CHUNK read RXBUF below `rx_len` only,
and RESET leaves no byte below it. -/
theorem deadRxbufBytesUnobservable : Obligations.DeadRxbufBytesUnobservable := by
  intro i s t s' h hnext
  cases hi : usesAccumulator i with
  | false =>
    obtain ⟨f, hf, hexec⟩ := exec_ignoresAccumulator hi
    rw [hexec] at hnext
    cases hnext
    exact ⟨f t, hexec t, hf.keeps_sameButDeadRxbuf h⟩
  | true =>
    cases i with
    | rxByte b => exact rxChunk_keeps_sameButDeadRxbuf h [b] hnext
    | rxChunk x => exact rxChunk_keeps_sameButDeadRxbuf h x hnext
    | reset =>
      cases hnext
      obtain ⟨m, rfl, -⟩ := sameButDeadRxbuf_iff.mp h
      exact ⟨_, rfl, sameButDeadRxbuf_iff.mpr ⟨m, rfl, fun a ha => absurd ha (Nat.not_lt_zero a)⟩⟩
    | _ => cases hi

end Sys2Proof.Machine

namespace Sys2Proof.Machine

/-! ## What an operation writes

A send, an answer and received bytes write the accumulator, the session's registers and perhaps WORK; `seq_next` then counts
the frames sent, and flags only fall. That is one reflexive and transitive relation, `SessionEffect`. Every shared operation
stays in it, and `exec_effect` says of every instruction what it can write. -/

@[simp] theorem countTx_nil : countTx [] = 0 := rfl

@[simp] theorem countTx_append (es fs : List Event) : countTx (es ++ fs) = countTx es + countTx fs :=
  List.countP_append

/-- From `s` to `t` the fields named here are kept, `seq_next` counts the frames sent (10_state.md R27) and no flag becomes
1 (R28); the accumulator, the pending table, WORK and the outputs may change. -/
structure SessionEffect (s t : State) : Prop where
  params : t.params = s.params
  defMap : t.defMap = s.defMap
  crcAcc : t.crcAcc = s.crcAcc
  now : t.now = s.now
  inbox : t.inbox = s.inbox
  counts_tx : ∃ es, t.events = s.events ++ es ∧ t.seqNext = s.seqNext + BitVec.ofNat 8 (countTx es)
  flags_fall : ∀ g, t.flag g = true → s.flag g = true

namespace SessionEffect

/-- A change of the fields that the relation does not restrict. -/
theorem of_unrestricted (s : State) (m : Memory) (n : Nat) (o : Bool) (p : Vector (Option PendEntry) 256) (w : Keymap)
    (r : Result) (c : Bool) : SessionEffect s
      { s with rxbuf := m, rxLen := n, rxOvf := o, pend := p, work := w, result := r, seqCollision := c } :=
  ⟨rfl, rfl, rfl, rfl, rfl, ⟨[], by simp, by simp⟩, fun _ h => h⟩

theorem refl (s : State) : SessionEffect s s := of_unrestricted s _ _ _ _ _ _ _

theorem trans {s t u : State} (h : SessionEffect s t) (h' : SessionEffect t u) : SessionEffect s u where
  params := h'.params.trans h.params
  defMap := h'.defMap.trans h.defMap
  crcAcc := h'.crcAcc.trans h.crcAcc
  now := h'.now.trans h.now
  inbox := h'.inbox.trans h.inbox
  counts_tx := by
    obtain ⟨es, hes, hseq⟩ := h.counts_tx
    obtain ⟨fs, hfs, hseq'⟩ := h'.counts_tx
    exact ⟨es ++ fs, by rw [hfs, hes, List.append_assoc],
      by rw [hseq', hseq, countTx_append, BitVec.ofNat_add, BitVec.add_assoc]⟩
  flags_fall := fun g hg => h.flags_fall g (h'.flags_fall g hg)

theorem finish (s : State) (r : Result) : SessionEffect s (s.finish r) := of_unrestricted s _ _ _ _ _ _ _

theorem resetAccumulator (s : State) : SessionEffect s s.resetAccumulator := of_unrestricted s _ _ _ _ _ _ _

theorem accumulate (s : State) (b : Byte) : SessionEffect s (s.accumulate b) := by
  obtain ⟨-, h⟩ | ⟨-, h⟩ := s.accumulate_cases b <;> rw [h] <;> exact of_unrestricted s _ _ _ _ _ _ _

/-- An event that sends nothing. -/
theorem emit (s : State) {e : Event} (he : countTx [e] = 0) : SessionEffect s (s.emit e) :=
  ⟨rfl, rfl, rfl, rfl, rfl, ⟨[e], rfl, by simp [he]⟩, fun _ h => h⟩

theorem clearFlags (s : State) : SessionEffect s s.clearFlags :=
  ⟨rfl, rfl, rfl, rfl, rfl, ⟨[], by simp, by simp⟩, fun g h => by cases g <;> cases h⟩

theorem clearFlag (s : State) (g : ChainFlag) : SessionEffect s (s.setFlag false g) where
  params := s.setFlag_params false g
  defMap := s.setFlag_defMap false g
  crcAcc := s.setFlag_crcAcc false g
  now := s.setFlag_now false g
  inbox := s.setFlag_inbox false g
  counts_tx := ⟨[], by simp, by simp⟩
  flags_fall := fun h hh => by
    rw [State.flag_setFlag] at hh
    split at hh
    · cases hh
    · exact hh

theorem sendFrame (s : State) (type : Byte) (payload : Bytes) (silent : Bool) :
    SessionEffect s (s.sendFrame type payload silent) := by
  rw [State.sendFrame_eq]
  exact ⟨rfl, rfl, rfl, rfl, rfl, ⟨_, rfl, rfl⟩, fun _ h => h⟩

theorem resolve (s : State) (k : Byte) (status : Status) (sub : Sub) (reason : Bytes) :
    SessionEffect s (s.resolve k status sub reason) := by
  cases h : s.pendAt k with
  | none => rw [State.resolve_none h]; exact refl s
  | some e => rw [State.resolve, h]; exact (of_unrestricted s _ _ _ _ _ _ _).trans (emit _ rfl)

theorem resolveAndChain (s : State) (k : Byte) (flag : ChainFlag) (next : Byte) :
    SessionEffect s (s.resolveAndChain k flag next) := by
  have hcleared : SessionEffect s ((s.resolve k .ok .none []).setFlag false flag) :=
    (resolve s k .ok .none []).trans (clearFlag _ flag)
  obtain ⟨-, h⟩ | ⟨_, -, ⟨-, h⟩ | ⟨-, h⟩⟩ := s.resolveAndChain_cases k flag next <;> rw [h]
  · exact refl s
  · exact hcleared
  · exact hcleared.trans (sendFrame _ next [] false)

theorem receiveGetmap (f : Frame) (s : State) : SessionEffect s (Machine.receiveGetmap f s) := by
  obtain ⟨-, h⟩ | ⟨e, m, -, -, h⟩ | ⟨e, cls, sub, -, -, h⟩ := receiveGetmap_cases f s <;> rw [h]
  · exact refl s
  · exact ((of_unrestricted s _ _ _ _ m _ _).trans (emit _ rfl)).trans (emit _ rfl)
  · exact resolve s f.seq cls sub []

theorem receiveError (f : Frame) (s : State) : SessionEffect s (Machine.receiveError f s) :=
  (clearFlags s).trans (resolve _ f.seq .deviceError .none f.payload)

theorem dispatchFrame (type : Byte) (f : Frame) (s : State) : SessionEffect s (Machine.dispatchFrame type f s) := by
  unfold Machine.dispatchFrame
  split_ifs
  · exact refl s
  · exact refl s
  · exact receiveGetmap f s
  · exact resolveAndChain s f.seq .saveAfterWrite Config.typeSave
  · exact resolve s f.seq .ok .none []
  · exact resolveAndChain s f.seq .fetchAfterLoad Config.typeGetmap
  · exact resolveAndChain s f.seq .fetchAfterReset Config.typeGetmap
  · exact resolve s f.seq .ok .none []
  · exact receiveError f s
  · exact refl s

theorem receiveFrame (s : State) (y : Bytes) : SessionEffect s (s.receiveFrame y) := by
  obtain ⟨-, h⟩ | ⟨d, -, ⟨-, h⟩ | ⟨cls, sub, k, -, h⟩ | ⟨f, -, h⟩⟩ := s.receiveFrame_cases y <;> rw [h]
  · exact refl s
  · exact refl s
  · exact resolve s k cls sub []
  · exact dispatchFrame f.type _ s

theorem rxByte (s : State) (b : Byte) : SessionEffect s (s.rxByte b) := by
  by_cases hb : b = Config.term
  · rw [hb, State.rxByte_term]
    obtain ⟨-, h⟩ | ⟨-, h⟩ := s.closeFrame_cases <;> rw [h]
    · exact resetAccumulator s
    · exact (resetAccumulator s).trans (receiveFrame _ _)
  · rw [State.rxByte_data s hb]
    exact accumulate s b

theorem rxBytes : ∀ (x : Bytes) (s : State), SessionEffect s (s.rxBytes x)
  | [], s => refl s
  | b :: x, s => (rxByte s b).trans (rxBytes x (s.rxByte b))

end SessionEffect

@[simp] theorem State.sendFrame_work (s : State) (type : Byte) (payload : Bytes) (silent : Bool) :
    (s.sendFrame type payload silent).work = s.work := by rw [State.sendFrame_eq]

@[simp] theorem State.resolve_work (s : State) (k : Byte) (status : Status) (sub : Sub) (reason : Bytes) :
    (s.resolve k status sub reason).work = s.work := by
  cases h : s.pendAt k with
  | none => rw [State.resolve_none h]
  | some e => rw [State.resolve_some h]

@[simp] theorem State.resolveAndChain_work (s : State) (k : Byte) (flag : ChainFlag) (next : Byte) :
    (s.resolveAndChain k flag next).work = s.work := by
  obtain ⟨-, h⟩ | ⟨_, -, ⟨-, h⟩ | ⟨-, h⟩⟩ := s.resolveAndChain_cases k flag next <;>
    simp [h]

/-- A TICK sends nothing. -/
theorem State.countTx_timeouts (s : State) (n : Nat) : countTx (s.timeouts n) = 0 := by
  refine List.countP_eq_zero.mpr fun ev hev => ?_
  obtain ⟨k, e, -, -, rfl⟩ := (s.mem_timeouts n ev).mp hev
  simp

/-! ## What each instruction writes -/

/-- The REQ operation that sets a flag with its bit 1 (44_session.md R252, R254, R255). -/
def flagRequest : ChainFlag → Bool → Instr
  | .saveAfterWrite => .reqSetmap
  | .fetchAfterLoad => .reqLoad
  | .fetchAfterReset => .reqResetdefault

/-- The effects that an instruction run to its end can have. -/
inductive ExecEffect (s : State) : Instr → State → Prop where
  /-- It writes the session only, and not WORK. -/
  | session {i : Instr} {t : State} (h : SessionEffect s.start t) (hwork : t.work = s.work) : ExecEffect s i t
  /-- As `session`, after the request has set its flag. -/
  | raise (g : ChainFlag) {t : State} (h : SessionEffect (s.start.setFlag true g) t) (hwork : t.work = s.work) :
      ExecEffect s (flagRequest g true) t
  | getmap (f : Frame) {t : State} (h : SessionEffect s.start t) : ExecEffect s (.getmap f) t
  | rxByte (b : Byte) {t : State} (h : SessionEffect s.start t) : ExecEffect s (.rxByte b) t
  | rxChunk (x : Bytes) {t : State} (h : SessionEffect s.start t) : ExecEffect s (.rxChunk x) t
  | crcInit : ExecEffect s .crcInit { s.start with crcAcc := Config.crcInit }
  | crcUpd (b : Byte) : ExecEffect s (.crcUpd b) { s.start with crcAcc := crcStep s.crcAcc b }
  | tick (n : Nat) (p : Vector (Option PendEntry) 256) :
      ExecEffect s (.tick n) { s.start with now := n, pend := p, events := s.timeouts n }
  | cfgWr (l r c : Nat) (a : Action) (w : Keymap) : ExecEffect s (.cfgWr l r c a) { s.start with work := w }
  | reset {t : State} (h : execReset s = .next t) : ExecEffect s .reset t

namespace ExecEffect

variable {s : State} {i : Instr}

theorem answer (r : Result) : ExecEffect s i (s.start.finish r) := .session (.finish _ r) rfl

theorem refuse (why : RefuseReason) : ExecEffect s i (s.refuse why) := answer (.refused why)

theorem send (type : Byte) (payload : Bytes) (silent : Bool) : ExecEffect s i (s.sendOp id type payload silent) := by
  obtain ⟨-, h⟩ | ⟨-, h⟩ := s.sendOp_cases id type payload silent <;> rw [h]
  · exact .session ((SessionEffect.sendFrame _ type payload silent).trans (.finish _ _))
      (State.sendFrame_work _ type payload silent)
  · exact refuse .payloadTooLong

theorem request (g : ChainFlag) (bit : Bool) (type : Byte) (payload : Bytes) :
    ExecEffect s (flagRequest g bit) (s.sendOp (fun u => u.requestFlag g bit) type payload false) := by
  cases bit with
  | false => exact send type payload false
  | true =>
    obtain ⟨-, h⟩ | ⟨-, h⟩ := s.sendOp_cases (fun u => u.requestFlag g true) type payload false <;> rw [h]
    · exact .raise g ((SessionEffect.sendFrame _ type payload false).trans (.finish _ _))
        ((State.sendFrame_work _ type payload false).trans (s.start.setFlag_work true g))
    · exact refuse .payloadTooLong

theorem resolve (k : Byte) (status : Status) (sub : Sub) (reason : Bytes) :
    ExecEffect s i (s.start.resolve k status sub reason) :=
  .session (.resolve _ k status sub reason) (State.resolve_work _ k status sub reason)

theorem resolveAndChain (k : Byte) (flag : ChainFlag) (next : Byte) :
    ExecEffect s i (s.start.resolveAndChain k flag next) :=
  .session (.resolveAndChain _ k flag next) (State.resolveAndChain_work _ k flag next)

end ExecEffect

/-- Every instruction that completes has one of the effects. -/
theorem exec_effect {i : Instr} {s t : State} (h : exec i s = .next t) : ExecEffect s i t := by
  cases i with
  | ping f | pong f => cases h; exact .session (.refl _) rfl
  | getmap f => cases h; exact .getmap f (.receiveGetmap f _)
  | setmap f | load f | resetdefault f => cases h; exact .resolveAndChain f.seq _ _
  | save f | getinfo f => cases h; exact .resolve f.seq .ok .none []
  | error f =>
    cases h
    exact .session (.receiveError f _) (State.resolve_work _ f.seq .deviceError .none f.payload)
  | crcInit => cases h; exact .crcInit
  | crcUpd b => cases h; exact .crcUpd b
  | crcGet | crcBuf x | cobsEnc x | cobsDec y | frameParse d | actEq a b | cfgEnc | cfgDec p => cases h; exact .answer _
  | frameBuild type seq payload | frameEnc type seq payload =>
    cases h
    split
    · exact .refuse .payloadTooLong
    · exact .answer _
  | send type payload silent => cases h; exact .send type payload silent
  | reqPing => cases h; exact .send _ [] true
  | reqGetmap | reqSave | reqGetinfo => cases h; exact .send _ [] false
  | reqSetmap bit => cases h; exact .request .saveAfterWrite bit _ _
  | reqLoad bit => cases h; exact .request .fetchAfterLoad bit _ _
  | reqResetdefault bit => cases h; exact .request .fetchAfterReset bit _ _
  | rxByte b => cases execRxByte_next h; exact .rxByte b (.rxByte _ b)
  | rxChunk x => cases execRxChunk_next h; exact .rxChunk x (.rxBytes x _)
  | tick n =>
    cases h
    split
    · exact .refuse .timeBackwards
    · exact .tick n _
  | cfgRd l r c =>
    cases h
    cases cellIndex l r c with
    | none => exact .refuse .badIndex
    | some k => exact .answer _
  | cfgWr l r c a =>
    obtain ⟨why, hw⟩ | ⟨k, -, -, -, hw⟩ := execCfgWr_cases l r c a s
    · cases hw.symm.trans h; exact .refuse why
    · cases hw.symm.trans h; exact .cfgWr l r c a _
  | reset => exact .reset h

section
variable {i : Instr} {s t : State} (h : exec i s = .next t)
include h

theorem crcAcc_writers (hc : t.crcAcc ≠ s.crcAcc) : i = .crcInit ∨ (∃ b, i = .crcUpd b) ∨ i = .reset := by
  cases exec_effect h with
  | session he | getmap _ he | rxByte _ he | rxChunk _ he => exact absurd he.crcAcc hc
  | raise g he => exact absurd (he.crcAcc.trans (s.start.setFlag_crcAcc true g)) hc
  | crcInit => exact .inl rfl
  | crcUpd b => exact .inr (.inl ⟨b, rfl⟩)
  | tick | cfgWr => exact absurd rfl hc
  | reset => exact .inr (.inr rfl)

theorem now_writers (hn : t.now ≠ s.now) : (∃ n, i = .tick n) ∨ i = .reset := by
  cases exec_effect h with
  | session he | getmap _ he | rxByte _ he | rxChunk _ he => exact absurd he.now hn
  | raise g he => exact absurd (he.now.trans (s.start.setFlag_now true g)) hn
  | crcInit | crcUpd | cfgWr => exact absurd rfl hn
  | tick n => exact .inl ⟨n, rfl⟩
  | reset => exact .inr rfl

theorem exec_keeps_readOnly : t.defMap = s.defMap ∧ t.params = s.params ∧ t.inbox = s.inbox := by
  cases exec_effect h with
  | session he | getmap _ he | rxByte _ he | rxChunk _ he => exact ⟨he.defMap, he.params, he.inbox⟩
  | raise g he =>
    exact ⟨he.defMap.trans (s.start.setFlag_defMap true g), he.params.trans (s.start.setFlag_params true g),
      he.inbox.trans (s.start.setFlag_inbox true g)⟩
  | crcInit | crcUpd | tick | cfgWr => exact ⟨rfl, rfl, rfl⟩
  | reset hr => cases hr; exact ⟨rfl, rfl, rfl⟩

theorem work_writers (hw : t.work ≠ s.work) : (∃ l r c a, i = .cfgWr l r c a) ∨ (∃ f, i = .getmap f) ∨
    (∃ b, i = .rxByte b) ∨ (∃ x, i = .rxChunk x) ∨ i = .reset := by
  cases exec_effect h with
  | session _ hwork | raise _ _ hwork => exact absurd hwork hw
  | crcInit | crcUpd | tick => exact absurd rfl hw
  | cfgWr l r c a => exact .inl ⟨l, r, c, a, rfl⟩
  | getmap f => exact .inr (.inl ⟨f, rfl⟩)
  | rxByte b => exact .inr (.inr (.inl ⟨b, rfl⟩))
  | rxChunk x => exact .inr (.inr (.inr (.inl ⟨x, rfl⟩)))
  | reset => exact .inr (.inr (.inr (.inr rfl)))

/-- What ignores the accumulator leaves RXBUF, and RESET leaves its bytes too (log 9). -/
theorem rxbuf_writers (hb : t.rxbuf ≠ s.rxbuf) : (∃ b, i = .rxByte b) ∨ ∃ x, i = .rxChunk x := by
  cases hi : usesAccumulator i with
  | false =>
    obtain ⟨f, hf, hexec⟩ := exec_ignoresAccumulator hi
    cases (hexec s).symm.trans h
    exact absurd (hf.keeps_accumulator s).1 hb
  | true =>
    cases i with
    | rxByte b => exact .inl ⟨b, rfl⟩
    | rxChunk x => exact .inr ⟨x, rfl⟩
    | reset => cases h; exact absurd rfl hb
    | _ => cases hi

theorem seqNext_counts_tx (hi : i ≠ .reset) : t.seqNext = s.seqNext + BitVec.ofNat 8 (countTx t.events) := by
  cases exec_effect h with
  | session he | getmap _ he | rxByte _ he | rxChunk _ he =>
    obtain ⟨es, hes, hseq⟩ := he.counts_tx
    rw [hseq, hes]
    rfl
  | raise g he =>
    obtain ⟨es, hes, hseq⟩ := he.counts_tx
    rw [hseq, hes, State.setFlag_seqNext, State.setFlag_events]
    rfl
  | crcInit | crcUpd | cfgWr => simp
  | tick n p => simp [State.countTx_timeouts]
  | reset => exact absurd rfl hi

theorem flag_raised_by_request {g : ChainFlag} (hs : s.flag g = false) (ht : t.flag g = true) :
    i = flagRequest g true := by
  have contra (hfall : s.flag g = true) : i = flagRequest g true := by rw [hs] at hfall; cases hfall
  cases exec_effect h with
  | session he | getmap _ he | rxByte _ he | rxChunk _ he => exact contra (he.flags_fall g ht)
  | raise g' he =>
    have hset := he.flags_fall g ht
    rw [State.flag_setFlag] at hset
    split at hset
    · next heq => rw [heq]
    · exact contra hset
  | crcInit | crcUpd | tick | cfgWr => exact contra ht
  | reset hr => cases hr; cases g <;> cases ht

end

/-- Settles O57, one lemma for each field. -/
theorem onlyTheOwnersWriteState : Obligations.OnlyTheOwnersWriteState := fun _ _ _ h =>
  ⟨crcAcc_writers h, now_writers h, exec_keeps_readOnly h, work_writers h, rxbuf_writers h⟩

/-- Settles O58: the counter, and the one lemma about flags for each of the three. -/
theorem counterAndFlagsHaveTheirWriters : Obligations.CounterAndFlagsHaveTheirWriters := fun _ _ _ h =>
  ⟨seqNext_counts_tx h, flag_raised_by_request h (g := .saveAfterWrite),
    flag_raised_by_request h (g := .fetchAfterLoad), flag_raised_by_request h (g := .fetchAfterReset)⟩

/-! ## The state at reset -/

@[simp] theorem State.pendAt_reset (k : Byte) : State.reset.pendAt k = none := by
  simp [State.pendAt, State.reset]

/-- The cut of `Config.defaultMap` makes the default valid, whatever its cells are (10_state.md R37). -/
theorem defaultMap_valid : keymapValid Config.defaultMap := fun i => by
  simp [Config.defaultMap]

/-- Settles O49. -/
theorem resetStateValues : Obligations.ResetStateValues :=
  ⟨rfl, rfl, rfl, rfl, rfl, rfl, rfl, rfl, State.pendAt_reset, rfl, rfl⟩

/-- Settles O50: the accumulator and the pending table are empty, and both keymaps are the default. -/
theorem invariantHoldsAtReset : Obligations.InvariantHoldsAtReset where
  rxbuf_wf := Memory.reset_wf
  rxbuf_inside := fun _ hc => absurd hc List.not_mem_nil
  rxLen_le := Nat.zero_le _
  rxOvf_full := fun h => by cases h
  rxbuf_no_term := fun a ha => absurd ha (Nat.not_lt_zero a)
  deadlines := fun k _ he => by rw [State.pendAt_reset k] at he; cases he
  work_valid := defaultMap_valid
  defMap_valid := defaultMap_valid

end Sys2Proof.Machine

namespace Sys2Proof.Machine

/-! ## Taking the next operation

What `State.fetch` answers for a queue with an operation in front, by the operation's port, and what `step` makes of it. -/

theorem State.fetch_of_inbox {s : State} {q : Issue} {rest : List Issue} (h : s.inbox = q :: rest) :
    s.fetch = fetchIssue q { s with inbox := rest } := by
  rw [State.fetch, h]

theorem step_of_fetch_run {s t : State} {i : Instr} (h : s.fetch = .run i t) : step s = exec i t := by
  rw [step, h]

theorem fetchIssue_request {q : Issue} {i : Instr} (hport : q.port = .request) (hdec : decode q = .ok i) (s : State) :
    fetchIssue q s = .run i s := by
  simp only [fetchIssue, hport, hdec]

/-- On the wire port the decoded instruction runs only where the frame passes through RXBUF undisturbed (log 4). -/
theorem fetchIssue_wire {q : Issue} {i : Instr} {s : State} (hport : q.port = .wire) (hdec : decode q = .ok i)
    (hpass : s.framePasses q.bytes = true) : fetchIssue q s = .run i (s.latchFrame q.bytes) := by
  simp only [fetchIssue, hport, hdec, hpass, if_true]

theorem State.framePasses_iff (s : State) (w : Bytes) :
    s.framePasses w = true ↔ s.rxLen = 0 ∧ s.rxOvf = false ∧ w.length ≤ s.params.rxBufCap + 1 := by
  simp [State.framePasses, and_assoc]

/-- The terminator of a frame that met an empty accumulator leaves it empty: only RXBUF differs. -/
theorem State.latchFrame_of_empty {s : State} (hlen : s.rxLen = 0) (hovf : s.rxOvf = false) (w : Bytes) :
    s.latchFrame w = { s with rxbuf := s.rxbuf.writeBytes 0 w.dropLast } := by
  rw [State.latchFrame, State.resetAccumulator, ← hlen, ← hovf]

/-- Settles O54: the request port hands the decoded instruction to `exec` as it is; on the wire port the hypotheses are
that the frame passes, and the accumulator it empties was empty. -/
theorem stepRunsTheDecodedInstruction : Obligations.StepRunsTheDecodedInstruction := by
  intro s q rest i hinbox hdec
  have hfetch := State.fetch_of_inbox hinbox
  constructor
  · intro hport
    exact step_of_fetch_run (hfetch.trans (fetchIssue_request hport hdec _))
  · intro hport hlen hovf hfits
    have hpass : State.framePasses { s with inbox := rest } q.bytes = true :=
      (State.framePasses_iff _ _).mpr ⟨hlen, hovf, hfits⟩
    calc step s
      _ = exec i (State.latchFrame { s with inbox := rest } q.bytes) :=
        step_of_fetch_run (hfetch.trans (fetchIssue_wire hport hdec hpass))
      _ = exec i { s with inbox := rest, rxbuf := s.rxbuf.writeBytes 0 q.bytes.dropLast } :=
        congrArg (exec i) (State.latchFrame_of_empty (s := { s with inbox := rest }) hlen hovf q.bytes)

end Sys2Proof.Machine

namespace Sys2Proof.Machine

/-! ## COBS decodes what it encodes

The encoder never writes a zero, so the terminator behind its output is the only one (30_encoding.md R90), and the decoder
gives the input back (41_cobs.md R170). In both, `run` is the open group: zero-free and not yet full. -/

/-- A group in front of a stream that decodes. -/
theorem cobsDec_group {g rest out : Bytes} (hg : g.length ≤ 254) (hrest : cobsDec rest = .ok out) :
    cobsDec (cobsCode g :: (g ++ rest)) = .ok (g ++ (if g.length ≠ 254 ∧ rest ≠ [] then [0] else []) ++ out) := by
  have hfuel : cobsDecFrom (g ++ rest).length rest = .ok out :=
    (cobsDecFrom_fuel _ _ rest (by simp) le_rfl).trans hrest
  rw [cobsDec, List.length_cons, cobsCode, cobsDecFrom_group _ g rest hg, hfuel]

theorem cobsEncFrom_ne_nil (run x : Bytes) : cobsEncFrom run x ≠ [] := by
  induction x generalizing run with
  | nil => exact List.cons_ne_nil _ _
  | cons b x ih =>
    unfold cobsEncFrom
    split_ifs
    · exact List.cons_ne_nil _ _
    · exact List.cons_ne_nil _ _
    · exact ih _

theorem cobsCode_ne_zero {g : Bytes} (hg : g.length ≤ 254) : cobsCode g ≠ 0 := fun h => by
  have hmod : (g.length + 1) % 256 = 0 := congrArg BitVec.toNat h
  omega

/-- What one more byte does: a zero closes the open group, the 254th data byte closes it as a full group, and every other
byte joins it (41_cobs.md R163). -/
theorem cobsEncFrom_cons_cases {run : Bytes} (hrun : run.length < 254) (b : Byte) (x : Bytes) :
    (b = 0 ∧ cobsEncFrom run (b :: x) = cobsCode run :: (run ++ cobsEncFrom [] x)) ∨
    (b ≠ 0 ∧ (run ++ [b]).length = 254 ∧
      cobsEncFrom run (b :: x) = cobsCode (run ++ [b]) :: (run ++ [b] ++ cobsEncFrom [] x)) ∨
    (b ≠ 0 ∧ (run ++ [b]).length < 254 ∧ cobsEncFrom run (b :: x) = cobsEncFrom (run ++ [b]) x) := by
  have hlen : (run ++ [b]).length = run.length + 1 := List.length_append
  by_cases hzero : b = 0
  · exact .inl ⟨hzero, if_pos hzero⟩
  · refine .inr ?_
    rw [cobsEncFrom, if_neg hzero, cobsCode, hlen]
    by_cases hfull : run.length + 1 = Config.cobsMaxRun
    · rw [if_pos hfull, hfull]
      exact .inl ⟨hzero, rfl, rfl⟩
    · rw [if_neg hfull]
      rw [Config.cobsMaxRun] at hfull
      exact .inr ⟨hzero, by omega, rfl⟩

theorem cobsDec_cobsEncFrom (run x : Bytes) (hrun : run.length < 254) :
    cobsDec (cobsEncFrom run x) = .ok (run ++ x) := by
  induction x generalizing run with
  | nil => simpa [cobsEncFrom] using cobsDec_group hrun.le cobsDec_nil
  | cons b x ih =>
    have hnext := ih [] (by decide)
    rcases cobsEncFrom_cons_cases hrun b x with ⟨rfl, heq⟩ | ⟨-, hfull, heq⟩ | ⟨-, hopen, heq⟩
    · rw [heq, cobsDec_group hrun.le hnext]
      simp [hrun.ne, cobsEncFrom_ne_nil]
    · rw [heq, cobsDec_group hfull.le hnext]
      simp [hfull]
    · rw [heq, ih (run ++ [b]) hopen]
      simp

/-- 41_cobs.md R170, as a law of the two functions. -/
theorem cobsDec_cobsEnc (x : Bytes) : cobsDec (cobsEnc x) = .ok x := cobsDec_cobsEncFrom [] x (by decide)

theorem cobsGroup_no_zero {g : Bytes} (hlen : g.length ≤ 254) (hg : 0 ∉ g) : 0 ∉ cobsCode g :: g :=
  List.not_mem_cons_of_ne_of_not_mem (cobsCode_ne_zero hlen).symm hg

theorem cobsEncFrom_no_zero (run x : Bytes) (hrun : run.length < 254) (hzeros : 0 ∉ run) :
    0 ∉ cobsEncFrom run x := by
  induction x generalizing run with
  | nil => exact cobsGroup_no_zero hrun.le hzeros
  | cons b x ih =>
    have hnext := ih [] (by decide) List.not_mem_nil
    have hjoin (hb : b ≠ 0) : 0 ∉ run ++ [b] := List.not_mem_append hzeros (by simpa using hb.symm)
    rcases cobsEncFrom_cons_cases hrun b x with ⟨-, heq⟩ | ⟨hb, hfull, heq⟩ | ⟨hb, hopen, heq⟩
    · exact heq ▸ List.not_mem_append (cobsGroup_no_zero hrun.le hzeros) hnext
    · exact heq ▸ List.not_mem_append (cobsGroup_no_zero hfull.le (hjoin hb)) hnext
    · exact heq ▸ ih (run ++ [b]) hopen (hjoin hb)

/-- 41_cobs.md R164 (a): the output has no zero. -/
theorem cobsEnc_no_zero (x : Bytes) : 0 ∉ cobsEnc x := cobsEncFrom_no_zero [] x (by decide) List.not_mem_nil

/-! ## The parser reads what the builder lays out -/

theorem frameHeader_length (ver type seq : Byte) (len : Nat) : (frameHeader ver type seq len).length = 5 := rfl

theorem rawFrame_length (ver type seq : Byte) (payload : Bytes) :
    (rawFrame ver type seq payload).length = payload.length + 8 := by
  simp [rawFrame, frameHeader_length]; omega

/-- The part of a raw frame that the CRC covers (30_encoding.md R105). -/
theorem slice_rawFrame_body (ver type seq : Byte) (payload : Bytes) :
    slice (rawFrame ver type seq payload) 1 (payload.length + 6) =
      frameHeader ver type seq payload.length ++ payload := by
  have h := slice_middle [Config.sync] (frameHeader ver type seq payload.length ++ payload)
    (leBytes (crc16 (frameHeader ver type seq payload.length ++ payload)))
  rwa [List.length_append, frameHeader_length, List.length_singleton,
    show 1 + (5 + payload.length) = payload.length + 6 by omega] at h

theorem slice_rawFrame_payload (ver type seq : Byte) (payload : Bytes) :
    slice (rawFrame ver type seq payload) 6 (6 + payload.length) = payload :=
  slice_middle ([Config.sync] ++ frameHeader ver type seq payload.length) payload _

/-- The two bytes behind header and payload are the CRC of both. -/
theorem le16_rawFrame_crc (ver type seq : Byte) (payload : Bytes) :
    le16 (byteAt (rawFrame ver type seq payload) (payload.length + 6))
        (byteAt (rawFrame ver type seq payload) (payload.length + 7)) =
      crc16 (frameHeader ver type seq payload.length ++ payload) := by
  have hbyte := byteAt_append_right ([Config.sync] ++ (frameHeader ver type seq payload.length ++ payload))
    (leBytes (crc16 (frameHeader ver type seq payload.length ++ payload)))
  rw [show ([Config.sync] ++ (frameHeader ver type seq payload.length ++ payload)).length = payload.length + 6 by
    simp [frameHeader_length]; omega] at hbyte
  exact (congrArg₂ le16 (hbyte 0) (hbyte 1)).trans (le16_lo8_hi8 _)

/-- 43_frame_rx.md R206 for any `ver` byte: every check passes, and the fields are the ones the frame was built of. -/
theorem frameParse_rawFrame (ver type seq : Byte) {payload : Bytes} (hlen : payload.length ≤ Config.maxPayload) :
    frameParse (rawFrame ver type seq payload) =
      .ok { ver := ver, type := type, seq := seq, length := BitVec.ofNat 16 payload.length, payload := payload } := by
  have hsync : byteAt (rawFrame ver type seq payload) 0 = Config.sync := rfl
  have hver : byteAt (rawFrame ver type seq payload) 1 = ver := rfl
  have htype : byteAt (rawFrame ver type seq payload) 2 = type := rfl
  have hseq : byteAt (rawFrame ver type seq payload) 3 = seq := rfl
  have hfield : le16 (byteAt (rawFrame ver type seq payload) 4) (byteAt (rawFrame ver type seq payload) 5) =
      BitVec.ofNat 16 payload.length := le16_lo8_hi8 _
  have hlen16 : (BitVec.ofNat 16 payload.length).toNat = payload.length := by
    simp only [BitVec.toNat_ofNat, Config.maxPayload] at hlen ⊢; omega
  have hmin : ¬ payload.length + 8 < Config.minFrame := by simp [Config.minFrame]
  simp only [frameParse, rawFrame_length, hmin, hsync, hver, htype, hseq, hfield, hlen16,
    show payload.length + 8 - 2 = payload.length + 6 from rfl, show payload.length + 8 - 1 = payload.length + 7 from rfl,
    le16_rawFrame_crc, slice_rawFrame_body, slice_rawFrame_payload, ne_eq, not_true_eq_false, if_false]

/-! ## Decoding a received frame -/

/-- A wire frame decodes where it is zero-free bytes and one terminator, the bytes decode to a buffer that passes the
parser, and the type is a command type. -/
theorem decodeWire_eq_ok_iff {w : Bytes} {i : Instr} : decodeWire w = .ok i ↔
    ∃ (y d : Bytes) (f : ParsedFrame), w = y ++ [Config.term] ∧ Config.term ∉ y ∧ cobsDec y = .ok d ∧
      frameParse d = .ok f ∧ frameInstr f.type { ver := f.ver, seq := f.seq, payload := f.payload } = some i := by
  constructor
  · intro h
    unfold decodeWire at h
    split_ifs at h with hlast hseveral
    obtain ⟨y, rfl⟩ := List.getLast?_eq_some_iff.mp (not_not.mp hlast)
    rw [List.dropLast_concat] at h hseveral
    cases hd : cobsDec y with
    | err cls sub => simp [hd] at h
    | ok d =>
      cases hp : frameParse d with
      | tooShort => simp [hd, hp] at h
      | fail cls sub k => simp [hd, hp] at h
      | ok f =>
        cases hi : frameInstr f.type { ver := f.ver, seq := f.seq, payload := f.payload } with
        | none => simp [hd, hp, hi] at h
        | some j =>
          obtain rfl : j = i := by simpa [hd, hp, hi] using h
          exact ⟨y, d, f, rfl, by simpa using hseveral, hd, hp, hi⟩
  · rintro ⟨y, d, f, rfl, hy, hd, hp, hi⟩
    simp [decodeWire, hy, hd, hp, hi]

theorem decode_received {type : Byte} {f : Frame} {i : Instr} (hf : f.wellFormed = true)
    (hi : frameInstr type f = some i) : decode (received type f) = .ok i :=
  decodeWire_eq_ok_iff.mpr ⟨_, _, _, rfl, cobsEnc_no_zero _, cobsDec_cobsEnc _,
    frameParse_rawFrame f.ver type f.seq (of_decide_eq_true hf), hi⟩

/-! ## Reading back the operands of the request port (log 2) -/

/-- Every division by 256 leaves less, so the number itself is digits enough. -/
theorem natOfDigits_natDigits (fuel n : Nat) (h : n ≤ fuel) : natOfDigits (natDigits fuel n) = n := by
  induction fuel generalizing n with
  | zero => exact (Nat.le_zero.mp h).symm
  | succ fuel ih =>
    unfold natDigits
    split_ifs with hn
    · exact hn.symm
    · rw [natOfDigits, ih (n / 256) (by omega), BitVec.toNat_ofNat]
      omega

theorem length_lt_writeSteps (xs : List MacroStep) : xs.length < (writeSteps xs).length := by
  induction xs with
  | nil => decide
  | cons x xs ih => simp [writeSteps]; omega

/-- The reader takes the bytes `w`, whatever stands behind them, for the operand `a`. -/
def Reads {α : Type} (r : Bytes → Read α) (w : Bytes) (a : α) : Prop := ∀ rest, r (w ++ rest) = some (a, rest)

namespace Reads

theorem op1 {α : Type} {r : Bytes → Read α} {w : Bytes} {a : α} (h : Reads r w a) (mk : α → Instr) :
    Reads (op1 r mk) w (mk a) := fun rest => by
  rw [Sys2Proof.op1, h rest]

theorem opThen {α : Type} {r : Bytes → Read α} {k : α → Bytes → Read Instr} {w w' : Bytes} {a : α} {i : Instr}
    (h : Reads r w a) (h' : Reads (k a) w' i) : Reads (opThen r k) (w ++ w') i := fun rest => by
  rw [Sys2Proof.opThen, List.append_assoc, h]
  exact h' rest

/-- An operation with no operand. -/
theorem noOperand (i : Instr) : Reads (fun s => some (i, s)) [] i := fun _ => rfl

theorem byte (b : Byte) : Reads readByte [b] b := fun _ => rfl

theorem bit (v : Bool) : Reads readBit (writeBit v) v := by
  cases v <;> exact fun _ => rfl

theorem bytes (x : Bytes) : Reads readBytes (writeBytes x) x := fun rest => by
  induction x with
  | nil => cases rest <;> rfl
  | cons b x ih => simp [writeBytes, readBytes, ih]

theorem nat (n : Nat) : Reads readNat (writeNat n) n := fun rest => by
  rw [readNat, writeNat, bytes (natDigits n n) rest]
  exact congrArg (fun m => some (m, rest)) (natOfDigits_natDigits n n le_rfl)

/-- The end mark takes a unit of fuel too. -/
theorem steps (xs : List MacroStep) (fuel : Nat) (h : xs.length < fuel) :
    Reads (readSteps fuel) (writeSteps xs) xs := fun rest => by
  induction xs generalizing fuel with
  | nil => cases fuel with
    | zero => cases h
    | succ fuel => rfl
  | cons x xs ih => cases fuel with
    | zero => cases h
    | succ fuel =>
      have hstep : Config.stepLen = (stepBytes x).length := (stepBytes_length x).symm
      have htail := ih fuel (Nat.lt_of_succ_lt_succ h)
      have hdrop : (stepBytes x ++ (writeSteps xs ++ rest)).drop Config.stepLen = writeSteps xs ++ rest := by
        rw [hstep, List.drop_left]
      have hlen : Config.stepLen ≤ (stepBytes x ++ (writeSteps xs ++ rest)).length := by
        rw [hstep, List.length_append]; omega
      simp only [writeSteps, List.cons_append, List.append_assoc, readSteps, hdrop, hlen, htail, stepAt_stepBytes]
      rfl

theorem action (a : Action) : Reads readAction (writeAction a) a := fun rest => by
  obtain ⟨kind, mask, ⟨⟨keys⟩, hk⟩, xs⟩ := a
  simp only [List.size_toArray] at hk
  match keys, hk with
  | [k0, k1, k2, k3, k4, k5], _ =>
    have hfuel : xs.length < (writeSteps xs).length + rest.length := Nat.lt_add_right _ (length_lt_writeSteps xs)
    simp [writeAction, readAction, keysAt, byteAt, steps xs _ hfuel rest]

end Reads

theorem decode_request {sel : Byte} {w : Bytes} {r : Bytes → Read Instr} {i : Instr} (hsel : operandReader sel = some r)
    (h : Reads r w i) : decode (request sel w) = .ok i := by
  have hr : r w = some (i, []) := by simpa using h []
  simp [decode, request, decodeRequest, hsel, hr, isPadding]

/-! ## Decoding an encoding -/

/-- Settles O52: a received frame through COBS and the parser, an operation through its operands one by one. -/
theorem decodeInvertsEncode : Obligations.DecodeInvertsEncode := by
  intro i hi
  cases i with
  | ping f | pong f | getmap f | setmap f | save f | load f | resetdefault f | getinfo f | error f =>
    exact decode_received hi rfl
  | crcInit | crcGet | reqPing | reqGetmap | reqSave | reqGetinfo | cfgEnc | reset =>
    exact decode_request rfl (.noOperand _)
  | crcUpd b | rxByte b => exact decode_request rfl ((Reads.byte b).op1 _)
  | crcBuf x | cobsEnc x | cobsDec x | rxChunk x | frameParse x | cfgDec x =>
    exact decode_request rfl ((Reads.bytes x).op1 _)
  | reqSetmap v | reqLoad v | reqResetdefault v => exact decode_request rfl ((Reads.bit v).op1 _)
  | tick t => exact decode_request rfl ((Reads.nat t).op1 _)
  | frameBuild type seq payload | frameEnc type seq payload =>
    exact decode_request rfl ((Reads.byte type).opThen ((Reads.byte seq).opThen ((Reads.bytes payload).op1 _)))
  | send type payload silent =>
    exact decode_request rfl ((Reads.byte type).opThen ((Reads.bytes payload).opThen ((Reads.bit silent).op1 _)))
  | actEq a b => exact decode_request rfl ((Reads.action a).opThen ((Reads.action b).op1 _))
  | cfgRd l r c =>
    refine decode_request rfl ?_
    rw [List.append_assoc]
    exact (Reads.nat l).opThen ((Reads.nat r).opThen ((Reads.nat c).op1 _))
  | cfgWr l r c a =>
    refine decode_request rfl ?_
    rw [List.append_assoc, List.append_assoc]
    exact (Reads.nat l).opThen ((Reads.nat r).opThen ((Reads.nat c).opThen ((Reads.action a).op1 _)))

/-- Settles O53: each word is the encoding of what it stands for, evaluated, and decoding inverts encoding. -/
theorem writtenWordsDecode : Obligations.WrittenWordsDecode := by
  have word {q : Issue} {i : Instr} (hwf : i.wellFormed = true) (hq : encode i = q) : decode q = .ok i :=
    hq ▸ decodeInvertsEncode i hwf
  exact ⟨word rfl (by decide +kernel), word rfl (by decide +kernel), word rfl rfl, word rfl rfl⟩

/-! ## The wire port and RX.CHUNK -/

/-- A received command type runs as its dispatch from the start of the operation. -/
theorem exec_frameInstr {type : Byte} {f : Frame} {i : Instr} (h : frameInstr type f = some i) (s : State) :
    exec i s = .next (dispatchFrame type f s.start) := by
  unfold frameInstr at h
  unfold dispatchFrame
  split_ifs at h ⊢ <;> cases h <;> rfl

theorem State.receiveFrame_of_parsed {y d : Bytes} {f : ParsedFrame} (hd : cobsDec y = .ok d)
    (hp : Machine.frameParse d = .ok f) (s : State) :
    s.receiveFrame y = dispatchFrame f.type { ver := f.ver, seq := f.seq, payload := f.payload } s := by
  simp only [State.receiveFrame, hd, hp]

/-- A frame that meets an empty accumulator and fits passes through RXBUF and is received as it is. -/
theorem State.rxBytes_frame {s : State} {y : Bytes} (hlen : s.rxLen = 0) (hovf : s.rxOvf = false)
    (hy : Config.term ∉ y) (hfits : y.length ≤ s.params.rxBufCap) :
    s.rxBytes (y ++ [Config.term]) = (s.latchFrame (y ++ [Config.term])).receiveFrame y := by
  have hdata : ∀ b ∈ y, b ≠ Config.term := fun b hb h => hy (h ▸ hb)
  have hread : (s.rxbuf.writeBytes 0 y).readBytes 0 y.length = y := Memory.readBytes_writeBytes y _ 0 hdata
  rw [State.rxBytes_append, State.rxBytes_data y s hdata (by omega), State.rxBytes_cons, State.rxBytes_nil,
    State.rxByte_term, hlen, Nat.zero_add, State.closeFrame]
  simp only [hovf, hread, State.latchFrame, List.dropLast_concat]
  rfl

/-- Where a wire frame that passes decodes, RX.CHUNK of it is its own instruction behind the latched frame (log 4). -/
theorem execRxChunk_of_framePasses {s : State} {w : Bytes} {i : Instr} (hdec : decodeWire w = .ok i)
    (hpass : s.framePasses w = true) : execRxChunk w s = exec i (s.latchFrame w) := by
  obtain ⟨y, d, f, rfl, hy, hd, hp, hi⟩ := decodeWire_eq_ok_iff.mp hdec
  obtain ⟨hlen, hovf, hfits⟩ := (State.framePasses_iff _ _).mp hpass
  have hfits : y.length ≤ s.params.rxBufCap := by simpa using hfits
  calc execRxChunk (y ++ [Config.term]) s
    _ = .next (s.start.rxBytes (y ++ [Config.term])) := execRxChunk_of_le _ (by omega)
    _ = .next ((s.start.latchFrame (y ++ [Config.term])).receiveFrame y) :=
      congrArg _ (State.rxBytes_frame (s := s.start) hlen hovf hy hfits)
    _ = .next (dispatchFrame f.type { ver := f.ver, seq := f.seq, payload := f.payload }
          (s.latchFrame (y ++ [Config.term])).start) := congrArg _ (State.receiveFrame_of_parsed hd hp _)
    _ = exec i (s.latchFrame (y ++ [Config.term])) := (exec_frameInstr hi _).symm

/-- Settles O55: bytes that decode to no frame, or meet an accumulator they do not pass through, run as RX.CHUNK by
definition; the others are the frames of `execRxChunk_of_framePasses`. -/
theorem wirePortIsRxChunk : Obligations.WirePortIsRxChunk := by
  intro s w rest hinbox
  have hfetch := State.fetch_of_inbox hinbox
  cases hdec : decode { port := .wire, bytes := w } with
  | error e => exact step_of_fetch_run (hfetch.trans (by simp only [fetchIssue, hdec]))
  | ok i =>
    cases hpass : State.framePasses { s with inbox := rest } w with
    | false => exact step_of_fetch_run (hfetch.trans (by simp [fetchIssue, hdec, hpass]))
    | true =>
      exact (step_of_fetch_run (hfetch.trans (fetchIssue_wire rfl hdec hpass))).trans
        (execRxChunk_of_framePasses hdec hpass).symm

/-! ## Operations that are refused before they run -/

/-- The 26 selectors of 30_encoding.md R124 are the only ones with operands to read. -/
theorem operandReader_eq_none {sel : Byte}
    (h : sel ∉ ([0x00, 0x01, 0x02, 0x03, 0x10, 0x11, 0x20, 0x21, 0x22, 0x30, 0x31, 0x32, 0x40, 0x41, 0x42, 0x43, 0x44,
      0x45, 0x46, 0x47, 0x50, 0x51, 0x52, 0x53, 0x54, 0x70] : List Byte)) : operandReader sel = none := by
  simp only [List.mem_cons, List.not_mem_nil, or_false, not_or] at h
  simp only [operandReader, Opsel.crcInit, Opsel.crcUpd, Opsel.crcGet, Opsel.crcBuf, Opsel.cobsEnc, Opsel.cobsDec,
    Opsel.frameBuild, Opsel.frameEnc, Opsel.send, Opsel.rxByte, Opsel.rxChunk, Opsel.frameParse, Opsel.tick,
    Opsel.reqPing, Opsel.reqGetmap, Opsel.reqSetmap, Opsel.reqSave, Opsel.reqLoad, Opsel.reqResetdefault,
    Opsel.reqGetinfo, Opsel.actEq, Opsel.cfgEnc, Opsel.cfgDec, Opsel.cfgRd, Opsel.cfgWr, Opsel.reset, h, if_false]

theorem fetchIssue_request_error {q : Issue} {e : DecodeError} (hport : q.port = .request) (hdec : decode q = .error e)
    (s : State) : fetchIssue q s = .reject (refusalOf e) s := by
  simp only [fetchIssue, hport, hdec]

theorem step_of_fetch_reject {s t : State} {why : RefuseReason} (h : s.fetch = .reject why t) :
    step s = .next (t.refuse why) := by
  rw [step, h]

theorem step_idle {s : State} (h : s.inbox = []) : step s = .next s := by
  rw [step, State.fetch, h]

/-- Settles O56: no reader for the selector, so the request is rejected for that reason. -/
theorem unassignedSelectorsRefused : Obligations.UnassignedSelectorsRefused := by
  refine ⟨fun s sel ops rest hinbox hsel => ?_, fun s => step_idle⟩
  have hdec : decode { port := .request, bytes := sel :: ops } = .error .unassignedOpsel := by
    simp only [decode, decodeRequest, operandReader_eq_none hsel]
  exact step_of_fetch_reject ((State.fetch_of_inbox hinbox).trans (fetchIssue_request_error rfl hdec _))

end Sys2Proof.Machine

namespace Sys2Proof.Machine

/-! ## The CRC port -/

theorem exec_crcInit (s : State) : exec .crcInit s = .next { s.start with crcAcc := Config.crcInit } := rfl

theorem exec_crcUpd (b : Byte) (s : State) :
    exec (.crcUpd b) s = .next { s.start with crcAcc := crcStep s.crcAcc b } := rfl

theorem exec_crcGet (s : State) : exec .crcGet s = .next (s.start.finish (.word s.crcAcc)) := rfl

theorem exec_crcBuf (x : Bytes) (s : State) : exec (.crcBuf x) s = .next (s.start.finish (.word (crc16 x))) := rfl

theorem crcRounds_eq_iterate (n : Nat) (a : Half) : crcRounds n a = crcRound^[n] a := by
  induction n generalizing a with
  | zero => rfl
  | succ n ih => rw [crcRounds, ih, Function.iterate_succ_apply]

/-- The round in the words of 40_crc16.md R141: the test is on bit 15. -/
theorem crcRound_eq_bit15 :
    crcRound = fun a : Half => if a.getLsbD 15 then (a <<< 1) ^^^ 0x1021 else a <<< 1 := by
  funext a
  rw [crcRound, BitVec.msb_eq_getLsbD_last, Config.crcPoly]

/-- Settles O1: the equations of the two operations. -/
theorem crcInitAndGetUseTheRegister : Obligations.CrcInitAndGetUseTheRegister := fun s =>
  ⟨exec_crcInit s, exec_crcGet s⟩

/-- Settles O2: the recursion of `crcRounds` is the iterate of the round, and the round tests bit 15. -/
theorem crcUpdRunsEightRounds : Obligations.CrcUpdRunsEightRounds := by
  intro b s
  rw [exec_crcUpd, crcStep, crcRounds_eq_iterate, crcRound_eq_bit15]
  rfl

/-- Settles O3: `crc16` is the fold from the initial value. -/
theorem crcBufReturnsFold : Obligations.CrcBufReturnsFold := fun x s => exec_crcBuf x s

/-- Settles O4: the nine steps from the initial value, evaluated. -/
theorem crcCheckValue : Obligations.CrcCheckValue := by
  unfold Obligations.CrcCheckValue
  decide +kernel

/-- Settles O6: up to the changed byte the registers agree, that byte separates them, and the bytes behind it keep them
apart, because each step loses nothing of the register. -/
theorem oneChangedByteChangesCrc : Obligations.OneChangedByteChangesCrc := by
  intro x y b b' hne heq
  simp only [crc16, crcFold_append, crcFold_cons] at heq
  have hstep : crcStep (crcFold Config.crcInit x) b = crcStep (crcFold Config.crcInit x) b' :=
    crcFold_injective_acc y heq
  exact hne (crcStep_injective_byte _ hstep)

/-! ## The streaming CRC

Between CRC.INIT and CRC.GET only CRC.UPD and RESET write the register (`crcAcc_writers`), so a run without RESET folds
the bytes of its CRC.UPDs into it. -/

/-- The byte that an instruction gives to the register, if it is a CRC.UPD. -/
def crcUpdByte : Instr → Option Byte
  | .crcUpd b => some b
  | _ => none

@[simp] theorem crcUpdByte_crcUpd (b : Byte) : crcUpdByte (.crcUpd b) = some b := rfl

theorem crcUpdByte_eq_some_iff {i : Instr} {b : Byte} : crcUpdByte i = some b ↔ i = .crcUpd b := by
  cases i <;> simp [crcUpdByte]

/-- A run goes through the state behind its first instruction. -/
theorem runAll_cons_eq_next_iff {i : Instr} {is : List Instr} {s t : State} :
    runAll (i :: is) s = .next t ↔ ∃ u, exec i s = .next u ∧ runAll is u = .next t := by
  rw [runAll]
  cases exec i s <;> simp

theorem exec_folds_crcUpdByte {i : Instr} {s t : State} (h : exec i s = .next t) (hinit : i ≠ .crcInit)
    (hreset : i ≠ .reset) : t.crcAcc = crcFold s.crcAcc (crcUpdByte i).toList := by
  cases hb : crcUpdByte i with
  | some b =>
    cases crcUpdByte_eq_some_iff.mp hb
    cases (exec_crcUpd b s).symm.trans h
    rfl
  | none =>
    by_contra hne
    obtain hi | ⟨b, rfl⟩ | hi := crcAcc_writers h hne
    · exact hinit hi
    · cases hb
    · exact hreset hi

theorem runAll_folds_crcUpdBytes {is : List Instr} {s t : State} (his : ∀ i ∈ is, i ≠ .crcInit ∧ i ≠ .reset)
    (h : runAll is s = .next t) : t.crcAcc = crcFold s.crcAcc (is.filterMap crcUpdByte) := by
  induction is generalizing s with
  | nil => cases h; rfl
  | cons i is ih =>
    obtain ⟨⟨hinit, hreset⟩, his⟩ := List.forall_mem_cons.mp his
    obtain ⟨u, hi, hrun⟩ := runAll_cons_eq_next_iff.mp h
    have hfilter : (i :: is).filterMap crcUpdByte = (crcUpdByte i).toList ++ is.filterMap crcUpdByte := by
      cases hb : crcUpdByte i <;> simp [hb]
    rw [ih his hrun, exec_folds_crcUpdByte hi hinit hreset, hfilter, crcFold_append]

/-- Settles O5: CRC.INIT loads the initial value of `crc16`, and the run behind it folds the bytes given. -/
theorem streamingCrcEqualsBufferCrc : Obligations.StreamingCrcEqualsBufferCrc := by
  intro is s t his h
  obtain ⟨u, hinit, hrun⟩ := runAll_cons_eq_next_iff.mp h
  cases (exec_crcInit s).symm.trans hinit
  have hacc : t.crcAcc = crc16 (is.filterMap crcUpdByte) := runAll_folds_crcUpdBytes his hrun
  have hget : exec .crcGet t = .next (t.start.finish (.word (crc16 (is.filterMap crcUpdByte)))) := by
    rw [exec_crcGet, hacc]
  exact hget

end Sys2Proof.Machine

namespace Sys2Proof.Machine

/-! ## The COBS port -/

theorem exec_cobsEnc (x : Bytes) (s : State) : exec (.cobsEnc x) s = .next (s.start.finish (.bytes (cobsEnc x))) := rfl

theorem exec_cobsDec_of_ok {x y : Bytes} (h : cobsDec y = .ok x) (s : State) :
    exec (.cobsDec y) s = .next (s.start.finish (.bytes x)) :=
  show execCobsDec y s = _ by rw [execCobsDec, h]

theorem exec_cobsDec_of_err {y : Bytes} {cls : Status} {sub : Sub} (h : cobsDec y = .err cls sub) (s : State) :
    exec (.cobsDec y) s = .next (s.start.finish (.error cls sub)) :=
  show execCobsDec y s = _ by rw [execCobsDec, h]

/-- Settles O7: the two operations answer what the two functions of `cobsDec_cobsEnc` do. -/
theorem cobsRoundTrip : Obligations.CobsRoundTrip := fun x s =>
  ⟨cobsEnc x, exec_cobsEnc x s, exec_cobsDec_of_ok (cobsDec_cobsEnc x)⟩

/-! ## Decoding a list of groups

The decoder takes one group after another (41_cobs.md R167), so what it makes of a list of groups and a rest is settled
by what it makes of the rest. -/

@[simp] theorem cobsGroups_nil : cobsGroups [] = [] := rfl

theorem cobsGroups_cons (g : Bytes) (gs : List Bytes) :
    cobsGroups (g :: gs) = cobsCode g :: (g ++ cobsGroups gs) := rfl

theorem cobsGroups_append (gs gs' : List Bytes) : cobsGroups (gs ++ gs') = cobsGroups gs ++ cobsGroups gs' :=
  List.flatMap_append

theorem cobsGroups_eq_nil_iff {gs : List Bytes} : cobsGroups gs = [] ↔ gs = [] := by
  cases gs <;> simp [cobsGroups_cons]

/-- A group stands for its data and, unless it is full or the last one, for a zero (30_encoding.md R91). -/
theorem cobsMeaning_cons (g : Bytes) (gs : List Bytes) :
    cobsMeaning (g :: gs) = g ++ (if g.length ≠ 254 ∧ gs ≠ [] then [0] else []) ++ cobsMeaning gs := by
  cases gs with
  | nil => simp [cobsMeaning]
  | cons g' gs => by_cases hfull : g.length = 254 <;> simp [cobsMeaning, hfull]

theorem cobsDec_cobsGroups {gs : List Bytes} (hgs : ∀ g ∈ gs, g.length ≤ 254) :
    cobsDec (cobsGroups gs) = .ok (cobsMeaning gs) := by
  induction gs with
  | nil => rfl
  | cons g gs ih =>
    obtain ⟨hg, hgs⟩ := List.forall_mem_cons.mp hgs
    rw [cobsGroups_cons, cobsDec_group hg (ih hgs), cobsMeaning_cons]
    simp only [ne_eq, cobsGroups_eq_nil_iff]

/-- An error behind a group is the error of the whole: no data is answered. -/
theorem cobsDec_group_err {g rest : Bytes} {cls : Status} {sub : Sub} (hg : g.length ≤ 254)
    (hrest : cobsDec rest = .err cls sub) : cobsDec (cobsCode g :: (g ++ rest)) = .err cls sub := by
  have hfuel : cobsDecFrom (g ++ rest).length rest = .err cls sub :=
    (cobsDecFrom_fuel _ _ rest (by simp) le_rfl).trans hrest
  rw [cobsDec, List.length_cons, cobsCode, cobsDecFrom_group _ g rest hg, hfuel]

theorem cobsDec_cobsGroups_err {gs : List Bytes} {rest : Bytes} {cls : Status} {sub : Sub}
    (hgs : ∀ g ∈ gs, g.length ≤ 254) (hrest : cobsDec rest = .err cls sub) :
    cobsDec (cobsGroups gs ++ rest) = .err cls sub := by
  induction gs with
  | nil => exact hrest
  | cons g gs ih =>
    obtain ⟨hg, hgs⟩ := List.forall_mem_cons.mp hgs
    rw [cobsGroups_cons, List.cons_append, List.append_assoc]
    exact cobsDec_group_err hg (ih hgs)

theorem cobsDec_zeroCode (rest : Bytes) : cobsDec (0 :: rest) = .err .framingError .zeroCode := rfl

theorem cobsDec_runTruncated {c : Byte} {rest : Bytes} (h : rest.length + 1 < c.toNat) :
    cobsDec (c :: rest) = .err .framingError .runTruncated := by
  have hzero : c ≠ 0 := fun hc => by rw [hc] at h; exact absurd h (Nat.not_lt_zero _)
  have hshort : rest.length < c.toNat - 1 := by omega
  rw [cobsDec, List.length_cons, cobsDecFrom, if_neg hzero, if_pos hshort]

/-- Settles O9: group by group, and the two errors at the code byte behind the groups. -/
theorem cobsDecodesGroups : Obligations.CobsDecodesGroups := fun _ s hgs =>
  ⟨exec_cobsDec_of_ok (cobsDec_cobsGroups hgs) s,
    fun rest => exec_cobsDec_of_err (cobsDec_cobsGroups_err hgs (cobsDec_zeroCode rest)) s,
    fun _ _ hc => exec_cobsDec_of_err (cobsDec_cobsGroups_err hgs (cobsDec_runTruncated hc)) s⟩

/-! ## The groups that the encoder writes

What the encoder has read of the open segment, and not yet closed, is its open group `run`: so it writes the groups of
`run` and the bytes to come (41_cobs.md R163, R165). -/

/-- The groups of a byte sequence: those of its zero-free segments in order. -/
def inputGroups (x : Bytes) : List Bytes := (zeroFreeSegments x).flatMap segmentGroups

theorem inputGroups_short {run : Bytes} (hlen : run.length < 254) (hrun : ∀ b ∈ run, b ≠ 0) :
    inputGroups run = [run] := by
  have hseg := zeroFreeSegments_append zeroFreeSegments_nil hrun
  rw [List.append_nil] at hseg
  simp [inputGroups, hseg, segmentGroups_short hlen]

theorem inputGroups_short_zero {run : Bytes} (hlen : run.length < 254) (hrun : ∀ b ∈ run, b ≠ 0) (x : Bytes) :
    inputGroups (run ++ 0 :: x) = run :: inputGroups x := by
  have hseg := zeroFreeSegments_append (zeroFreeSegments_zero x) hrun
  rw [inputGroups, hseg, List.append_nil, List.flatMap_cons, segmentGroups_short hlen]
  rfl

theorem inputGroups_full {g : Bytes} (hlen : g.length = 254) (hg : ∀ b ∈ g, b ≠ 0) (x : Bytes) :
    inputGroups (g ++ x) = g :: inputGroups x := by
  obtain ⟨m, ms, hseg⟩ := zeroFreeSegments_cases x
  simp [inputGroups, zeroFreeSegments_append hseg hg, hseg, segmentGroups_full hlen]

theorem cobsEncFrom_eq_cobsGroups {run : Bytes} (x : Bytes) (hlen : run.length < 254) (hrun : ∀ b ∈ run, b ≠ 0) :
    cobsEncFrom run x = cobsGroups (inputGroups (run ++ x)) := by
  induction x generalizing run with
  | nil => simp [inputGroups_short hlen hrun, cobsGroups_cons, cobsEncFrom]
  | cons b x ih =>
    have hnext : cobsEncFrom [] x = cobsGroups (inputGroups x) := ih (by decide) (List.forall_mem_nil _)
    have hjoin (hb : b ≠ 0) : ∀ c ∈ run ++ [b], c ≠ 0 :=
      List.forall_mem_append.mpr ⟨hrun, List.forall_mem_singleton.mpr hb⟩
    rcases cobsEncFrom_cons_cases hlen b x with ⟨rfl, heq⟩ | ⟨hb, hfull, heq⟩ | ⟨hb, hopen, heq⟩
    · rw [heq, hnext, inputGroups_short_zero hlen hrun, cobsGroups_cons]
    · rw [heq, hnext, List.append_cons run b x, inputGroups_full hfull (hjoin hb), cobsGroups_cons]
    · rw [heq, List.append_cons run b x, ih hopen (hjoin hb)]

theorem cobsEnc_eq_cobsGroups (x : Bytes) : cobsEnc x = cobsGroups (inputGroups x) :=
  cobsEncFrom_eq_cobsGroups x (by decide) (List.forall_mem_nil _)

/-! ## The length of the encoder's output -/

/-- A segment's groups hold its bytes, a code byte for each full group, and one for the last group. -/
theorem cobsGroups_segmentGroups_length (m : Bytes) :
    (cobsGroups (segmentGroups m)).length = m.length + m.length / 254 + 1 := by
  by_cases hshort : m.length < 254
  · simp [segmentGroups_short hshort, cobsGroups_cons, Nat.div_eq_of_lt hshort]
  · have htake : (m.take 254).length = 254 := by rw [List.length_take]; omega
    have hgroups : segmentGroups m = m.take 254 :: segmentGroups (m.drop 254) := by
      rw [← segmentGroups_full htake, List.take_append_drop]
    have ih := cobsGroups_segmentGroups_length (m.drop 254)
    rw [List.length_drop] at ih
    rw [hgroups, cobsGroups_cons, List.length_cons, List.length_append, htake, ih]
    omega
termination_by m.length
decreasing_by rw [List.length_drop]; omega

theorem cobsGroups_flatMap_segmentGroups_length (ms : List Bytes) :
    (cobsGroups (ms.flatMap segmentGroups)).length =
      (ms.map List.length).sum + ms.length + (ms.map fun m => m.length / 254).sum := by
  induction ms with
  | nil => rfl
  | cons m ms ih =>
    rw [List.flatMap_cons, cobsGroups_append, List.length_append, cobsGroups_segmentGroups_length, ih]
    simp only [List.map_cons, List.sum_cons, List.length_cons]
    omega

/-- 41_cobs.md R166: the exact length. -/
theorem cobsEnc_length (x : Bytes) :
    (cobsEnc x).length = x.length + 1 + ((zeroFreeSegments x).map fun m => m.length / 254).sum := by
  rw [cobsEnc_eq_cobsGroups, inputGroups, cobsGroups_flatMap_segmentGroups_length, zeroFreeSegments_length]

theorem sum_length_div_le (ms : List Bytes) (n : Nat) :
    (ms.map fun m => m.length / n).sum ≤ (ms.map List.length).sum / n := by
  induction ms with
  | nil => exact Nat.zero_le _
  | cons m ms ih =>
    simp only [List.map_cons, List.sum_cons]
    exact (Nat.add_le_add_left ih _).trans Nat.div_add_div_le_add_div

/-- The segments have at most as many full groups as their bytes, all in one segment, would have. -/
theorem sum_fullGroups_le (x : Bytes) :
    ((zeroFreeSegments x).map fun m => m.length / 254).sum ≤ x.length / 254 := by
  have hbytes : ((zeroFreeSegments x).map List.length).sum ≤ x.length := by
    obtain ⟨m, ms, hseg⟩ := zeroFreeSegments_cases x
    have hlen := zeroFreeSegments_length x
    rw [hseg, List.length_cons] at hlen
    rw [hseg]
    omega
  exact (sum_length_div_le _ _).trans (Nat.div_le_div_right hbytes)

/-- Settles O8: the groups are `cobsEnc_eq_cobsGroups`, and the bounds follow from the exact length. -/
theorem cobsOutputZeroFreeAndBounded : Obligations.CobsOutputZeroFreeAndBounded := by
  intro x s
  have hlen := cobsEnc_length x
  have hfull := sum_fullGroups_le x
  have hzero : ∀ b ∈ cobsEnc x, b ≠ 0 := fun b hb h => cobsEnc_no_zero x (h ▸ hb)
  exact ⟨cobsEnc x, exec_cobsEnc x s, cobsEnc_eq_cobsGroups x, hzero, hlen, by omega, by omega⟩

end Sys2Proof.Machine

namespace Sys2Proof.Machine

/-! ## The frame builder

What FRAME.BUILD and FRAME.ENC answer, and the lengths of the frames they lay out. -/

theorem payloadTooLong_eq_false {payload : Bytes} (h : payload.length ≤ Config.maxPayload) :
    payloadTooLong payload = false := decide_eq_false (Nat.not_lt.mpr h)

theorem payloadTooLong_eq_true {payload : Bytes} (h : Config.maxPayload < payload.length) :
    payloadTooLong payload = true := decide_eq_true h

theorem exec_frameBuild_of_le (type seq : Byte) {payload : Bytes} (h : payload.length ≤ Config.maxPayload)
    (s : State) : exec (.frameBuild type seq payload) s =
      .next (s.start.finish (.bytes (rawFrame Config.protoVer type seq payload))) :=
  show execFrameBuild type seq payload s = _ by rw [execFrameBuild, payloadTooLong_eq_false h]; rfl

theorem exec_frameBuild_of_lt (type seq : Byte) {payload : Bytes} (h : Config.maxPayload < payload.length) (s : State) :
    exec (.frameBuild type seq payload) s = .next (s.refuse .payloadTooLong) :=
  show execFrameBuild type seq payload s = _ by rw [execFrameBuild, payloadTooLong_eq_true h]; rfl

theorem exec_frameEnc_of_le (type seq : Byte) {payload : Bytes} (h : payload.length ≤ Config.maxPayload) (s : State) :
    exec (.frameEnc type seq payload) s =
      .next (s.start.finish (.bytes (wireFrame Config.protoVer type seq payload))) :=
  show execFrameEnc type seq payload s = _ by rw [execFrameEnc, payloadTooLong_eq_false h]; rfl

/-- The header byte by byte, the length low byte first (30_encoding.md R100, R104). -/
theorem frameHeader_eq (ver type seq : Byte) (len : Nat) : frameHeader ver type seq len =
    [ver, type, seq, BitVec.ofNat 8 (len % 256), BitVec.ofNat 8 (len / 256)] := by
  have hlow : BitVec.ofNat 8 len = BitVec.ofNat 8 (len % 256) := BitVec.eq_of_toNat_eq (by simp)
  rw [frameHeader, leBytes_ofNat, hlow]
  rfl

/-- The raw frame byte by byte: the CRC is that of header and payload (30_encoding.md R105). -/
theorem rawFrame_eq (ver type seq : Byte) (payload : Bytes) : rawFrame ver type seq payload =
    [Config.sync] ++ frameHeader ver type seq payload.length ++ payload ++
      leBytes (crc16 (frameHeader ver type seq payload.length ++ payload)) := by
  simp only [rawFrame, List.append_assoc]

/-- Settles O10: the two equations of FRAME.BUILD, the frame laid out byte by byte. -/
theorem frameBuildLayout : Obligations.FrameBuildLayout := by
  intro type seq payload s hdr crc
  have hraw : rawFrame Config.protoVer type seq payload = [0xA5] ++ hdr ++ payload ++ leBytes crc := by
    rw [rawFrame_eq, frameHeader_eq]
    rfl
  refine ⟨fun hfits => ?_, fun hlong => exec_frameBuild_of_lt type seq hlong s⟩
  rw [exec_frameBuild_of_le type seq hfits, hraw]
  rfl

theorem wireFrame_length (ver type seq : Byte) (payload : Bytes) : (wireFrame ver type seq payload).length =
    payload.length + 10 + ((zeroFreeSegments (rawFrame ver type seq payload)).map fun m => m.length / 254).sum := by
  rw [wireFrame, List.length_append, cobsEnc_length, rawFrame_length, List.length_singleton]
  omega

/-- Settles O13: the encoder writes no zero, and its full groups are as many as the raw frame's length allows. -/
theorem wireFrameEndsInItsOnlyZero : Obligations.WireFrameEndsInItsOnlyZero := by
  intro type seq payload s hfits
  have hlen := wireFrame_length Config.protoVer type seq payload
  have hfull := sum_fullGroups_le (rawFrame Config.protoVer type seq payload)
  rw [rawFrame_length] at hfull
  refine ⟨rawFrame Config.protoVer type seq payload, cobsEnc (rawFrame Config.protoVer type seq payload),
    exec_frameBuild_of_le type seq hfits s, exec_cobsEnc _ s, exec_frameEnc_of_le type seq hfits s,
    fun b hb hzero => cobsEnc_no_zero _ (hzero ▸ hb), ?_, ?_⟩
  · exact le_of_le_of_eq (Nat.le_add_right _ _) hlen.symm
  · exact le_of_eq_of_le hlen (Nat.add_le_add_left hfull _)

/-! ## SEND -/

theorem exec_send (type : Byte) (payload : Bytes) (silent : Bool) (s : State) :
    exec (.send type payload silent) s = .next (s.sendOp id type payload silent) := rfl

theorem State.sendOp_of_lt (s : State) (before : State → State) (type : Byte) {payload : Bytes} (silent : Bool)
    (h : Config.maxPayload < payload.length) : s.sendOp before type payload silent = s.refuse .payloadTooLong := by
  rw [State.sendOp, payloadTooLong_eq_true h]
  rfl

/-- Counting on is modulo 256 (42_frame_tx.md R186). -/
theorem byte_add_one_eq_ofNat (k : Byte) : k + 1 = BitVec.ofNat 8 ((k.toNat + 1) % 256) :=
  BitVec.eq_of_toNat_eq (by simp [BitVec.toNat_add])

/-- Settles O14: everything a send does, from the start of the operation. -/
theorem sendNumbersEmitsAndRegisters : Obligations.SendNumbersEmitsAndRegisters := by
  intro type payload silent s
  refine ⟨fun hfits => ⟨(s.pendAt s.seqNext).isSome, ?_⟩, fun hlong => ?_⟩
  · rw [exec_send, State.sendOp_of_le s id type silent hfits, State.sendFrame_eq, ← byte_add_one_eq_ofNat]
    rfl
  · rw [exec_send, State.sendOp_of_lt s id type silent hlong]
    rfl

/-! ## The length of a config payload

No keymap that keeps 10_state.md R37 has a diff that does not fit a frame, so REQ.SETMAP is never refused for one. -/

theorem flatMap_stepBytes_length (xs : List MacroStep) :
    (xs.flatMap stepBytes).length = xs.length * Config.stepLen := by
  simp [List.length_flatMap, Config.stepLen]

/-- 30_encoding.md R118: the fixed part, and ten bytes for each step of a macro. -/
theorem entryBytes_length (kindMacro : Byte) (i : Fin 50) (a : Action) : (entryBytes kindMacro i a).length =
    Config.entryFixedLen + if a.kind = kindMacro then a.steps.length * Config.stepLen else 0 := by
  simp only [entryBytes, List.length_append, List.length_cons, List.length_nil, Vector.length_toList,
    flatMap_stepBytes_length, Config.entryFixedLen]
  split_ifs
  · omega
  · rfl

theorem entryBytes_length_le (kindMacro : Byte) (i : Fin 50) {a : Action} (ha : a.steps.length ≤ Config.macroMax) :
    (entryBytes kindMacro i a).length ≤ Config.entryFixedLen + Config.macroMax * Config.stepLen := by
  rw [entryBytes_length]
  split_ifs
  · exact Nat.add_le_add_left (Nat.mul_le_mul_right _ ha) _
  · exact Nat.le_add_right _ _

theorem diffCells_length_le (kindMacro : Byte) (m d : Keymap) : (diffCells kindMacro m d).length ≤ 50 :=
  (List.length_filter_le _ _).trans_eq List.length_finRange

theorem cfgEnc_length (kindMacro : Byte) (m d : Keymap) : (cfgEnc kindMacro m d).length =
    Config.cfgMinLen + ((diffCells kindMacro m d).map fun i => (entryBytes kindMacro i m[i]).length).sum := by
  simp only [cfgEnc, List.length_append, List.length_cons, List.length_nil, leBytes_length, List.length_flatMap,
    Config.cfgMinLen]
  omega

/-- A valid keymap's encoding fits the 16-bit `length` field: at most 50 entries of at most 172 bytes. -/
theorem cfgEnc_length_le_maxPayload (kindMacro : Byte) {m : Keymap} (hm : keymapValid m) (d : Keymap) :
    (cfgEnc kindMacro m d).length ≤ Config.maxPayload := by
  have hcells := diffCells_length_le kindMacro m d
  have hsum := List.sum_le_card_nsmul
    ((diffCells kindMacro m d).map fun i => (entryBytes kindMacro i m[i]).length)
    (Config.entryFixedLen + Config.macroMax * Config.stepLen)
    (List.forall_mem_map.mpr fun i _ => entryBytes_length_le kindMacro i (hm i))
  rw [List.length_map, smul_eq_mul] at hsum
  rw [cfgEnc_length]
  simp only [Config.cfgMinLen, Config.entryFixedLen, Config.macroMax, Config.stepLen, Config.maxPayload] at hsum ⊢
  omega

/-! ## The flag for a send onto a pending entry -/

@[simp] theorem State.requestFlag_seqNext (s : State) (g : ChainFlag) (bit : Bool) :
    (s.requestFlag g bit).seqNext = s.seqNext := by
  cases bit with
  | false => rfl
  | true => exact s.setFlag_seqNext true g

@[simp] theorem State.requestFlag_seqCollision (s : State) (g : ChainFlag) (bit : Bool) :
    (s.requestFlag g bit).seqCollision = s.seqCollision := by
  cases bit with
  | false => rfl
  | true => exact s.setFlag_seqCollision true g

@[simp] theorem State.pendAt_requestFlag (s : State) (g : ChainFlag) (bit : Bool) (k : Byte) :
    (s.requestFlag g bit).pendAt k = s.pendAt k := by
  cases bit with
  | false => rfl
  | true => exact s.pendAt_setFlag true g k

theorem State.sendFrame_seqCollision (s : State) (type : Byte) (payload : Bytes) (silent : Bool) :
    (s.sendFrame type payload silent).seqCollision = true ↔
      s.seqCollision = true ∨ ∃ e, s.pendAt s.seqNext = some e := by
  rw [State.sendFrame_eq, Bool.or_eq_true, Option.isSome_iff_exists]

/-- A send operation starts with the flag cleared; what it does before it sends must leave the number that is taken, its
entry, and the flag. -/
theorem State.sendOp_seqCollision {s : State} {before : State → State}
    (hseq : (before s.start).seqNext = s.seqNext)
    (hpend : (before s.start).pendAt s.seqNext = s.pendAt s.seqNext)
    (hclear : (before s.start).seqCollision = false) (type : Byte) {payload : Bytes} (silent : Bool)
    (hfits : payload.length ≤ Config.maxPayload) :
    (s.sendOp before type payload silent).seqCollision = true ↔ ∃ e, s.pendAt s.seqNext = some e := by
  rw [State.sendOp_of_le s before type silent hfits, State.finish_seqCollision, State.sendFrame_seqCollision, hseq,
    hpend, hclear]
  simp only [Bool.false_eq_true, false_or]

theorem State.sendOp_requestFlag_seqCollision (s : State) (g : ChainFlag) (bit : Bool) (type : Byte) {payload : Bytes}
    (silent : Bool) (hfits : payload.length ≤ Config.maxPayload) :
    (s.sendOp (fun u => u.requestFlag g bit) type payload silent).seqCollision = true ↔
      ∃ e, s.pendAt s.seqNext = some e :=
  State.sendOp_seqCollision (s.start.requestFlag_seqNext g bit) (s.start.pendAt_requestFlag g bit s.seqNext)
    (s.start.requestFlag_seqCollision g bit) type silent hfits

/-- Settles O15: a SEND, a request with a flag, and a chained send behind the Resolve of its answer. -/
theorem sendOntoPendingEntryIsFlagged : Obligations.SendOntoPendingEntryIsFlagged := by
  intro s flaggedIff onto
  have plain {i : Instr} {type : Byte} {payload : Bytes} {silent : Bool}
      (hexec : exec i s = .next (s.sendOp id type payload silent)) (hfits : payload.length ≤ Config.maxPayload) :
      flaggedIff i onto := ⟨_, hexec, State.sendOp_seqCollision rfl rfl rfl type silent hfits⟩
  have request {i : Instr} (g : ChainFlag) {bit : Bool} {type : Byte} {payload : Bytes}
      (hexec : exec i s = .next (s.sendOp (fun u => u.requestFlag g bit) type payload false))
      (hfits : payload.length ≤ Config.maxPayload) :
      flaggedIff i onto := ⟨_, hexec, s.sendOp_requestFlag_seqCollision g bit type false hfits⟩
  have chained {i : Instr} {k next : Byte} {e : PendEntry} (g : ChainFlag)
      (hexec : exec i s = .next (s.start.resolveAndChain k g next)) (hk : s.pendAt k = some e)
      (hg : s.start.flag g = true) : flaggedIff i (s.seqNext ≠ k ∧ onto) :=
    ⟨_, hexec, (State.resolveAndChain_seqCollision (s := s.start) hk hg next).trans (by simp [onto])⟩
  have hempty : ([] : Bytes).length ≤ Config.maxPayload := Nat.zero_le _
  refine ⟨fun _ _ _ hfits => plain rfl hfits, ?plainRequests,
    fun fetch => ⟨request .fetchAfterLoad rfl hempty, request .fetchAfterReset rfl hempty⟩,
    fun hwork save => request .saveAfterWrite rfl (cfgEnc_length_le_maxPayload _ hwork _), fun f e he => ?answers⟩
  case plainRequests =>
    simp only [List.forall_mem_cons]
    exact ⟨plain rfl hempty, plain rfl hempty, plain rfl hempty, plain rfl hempty, List.forall_mem_nil _⟩
  case answers =>
    simp only [List.forall_mem_cons]
    exact ⟨chained .saveAfterWrite rfl he, chained .fetchAfterLoad rfl he, chained .fetchAfterReset rfl he,
      List.forall_mem_nil _⟩

end Sys2Proof.Machine

namespace Sys2Proof.Machine

/-! ## The wire frame of a received command, through the receive path -/

theorem decode_of_wire {q : Issue} (h : q.port = .wire) : decode q = decodeWire q.bytes := by rw [decode, h]

/-- What decodes as a wire frame has its only zero at the end, so RXBUF gives back the bytes before it. -/
theorem Memory.readBytes_writeBytes_wire {w : Bytes} {i : Instr} (h : decodeWire w = .ok i) (m : Memory) :
    (m.writeBytes 0 w.dropLast).readBytes 0 (w.length - 1) = w.dropLast := by
  obtain ⟨y, -, -, rfl, hy, -⟩ := decodeWire_eq_ok_iff.mp h
  rw [List.dropLast_concat, List.length_append, List.length_singleton, Nat.add_sub_cancel]
  exact Memory.readBytes_writeBytes y m 0 fun b hb => ne_of_mem_of_not_mem hb hy

/-- Settles O30: the encoding decodes, it passes through the empty accumulator, and there `execRxChunk_of_framePasses`
runs its instruction. -/
theorem wireFrameThroughRxRunsItsInstruction : Obligations.WireFrameThroughRxRunsItsInstruction := by
  intro i s hwire hwf hlen hovf hfits
  have hdec : decodeWire (encode i).bytes = .ok i := (decode_of_wire hwire).symm.trans (decodeInvertsEncode i hwf)
  have hpass := (s.framePasses_iff (encode i).bytes).mpr ⟨hlen, hovf, hfits⟩
  refine ⟨s.rxbuf.writeBytes 0 (encode i).bytes.dropLast, ?_, Memory.readBytes_writeBytes_wire hdec _⟩
  rw [← State.latchFrame_of_empty hlen hovf]
  exact execRxChunk_of_framePasses hdec hpass

end Sys2Proof.Machine

namespace Sys2Proof.Machine

/-! ## The checks of the parser

FRAME.PARSE in equations, one for each check that can fail (43_frame_rx.md R205), and the conjunction of the checks. -/

theorem exec_frameParse (d : Bytes) (s : State) :
    exec (.frameParse d) s = .next (s.start.finish (.parsed (frameParse d))) := rfl

/-- The `length` field counts the bytes of the payload (30_encoding.md R104). -/
def LengthMatches (d : Bytes) : Prop := d.length = (le16 (byteAt d 4) (byteAt d 5)).toNat + 8

/-- The last two bytes are the CRC of what stands between them and the sync byte (30_encoding.md R105). -/
def CrcMatches (d : Bytes) : Prop :=
  le16 (byteAt d (d.length - 2)) (byteAt d (d.length - 1)) = crc16 (slice d 1 (d.length - 2))

section
variable {d : Bytes}

theorem frameParse_of_short (h : d.length < 8) : frameParse d = .tooShort := if_pos h

theorem frameParse_of_badSync (h : 8 ≤ d.length) (hsync : byteAt d 0 ≠ Config.sync) :
    frameParse d = .fail .formatError .badSync (byteAt d 3) :=
  (if_neg h.not_gt).trans (if_pos hsync)

theorem frameParse_of_badLength (h : 8 ≤ d.length) (hsync : byteAt d 0 = Config.sync) (hlen : ¬ LengthMatches d) :
    frameParse d = .fail .formatError .badLength (byteAt d 3) :=
  (if_neg h.not_gt).trans ((if_neg (not_not.mpr hsync)).trans (if_pos hlen))

theorem frameParse_of_lengthMatches (hsync : byteAt d 0 = Config.sync) (hlen : LengthMatches d) :
    frameParse d =
      if le16 (byteAt d (d.length - 2)) (byteAt d (d.length - 1)) ≠ crc16 (slice d 1 (d.length - 2)) then
        .fail .integrityError .badCrc (byteAt d 3)
      else .ok { ver := byteAt d 1, type := byteAt d 2, seq := byteAt d 3, length := le16 (byteAt d 4) (byteAt d 5),
                 payload := slice d 6 (6 + (le16 (byteAt d 4) (byteAt d 5)).toNat) } :=
  (if_neg (by rw [hlen]; exact Nat.not_lt.mpr (Nat.le_add_left 8 _))).trans
    ((if_neg (not_not.mpr hsync)).trans (if_neg (not_not.mpr hlen)))

theorem frameParse_of_badCrc (hsync : byteAt d 0 = Config.sync) (hlen : LengthMatches d) (hcrc : ¬ CrcMatches d) :
    frameParse d = .fail .integrityError .badCrc (byteAt d 3) :=
  (frameParse_of_lengthMatches hsync hlen).trans (if_pos hcrc)

theorem frameParse_of_crcMatches (hsync : byteAt d 0 = Config.sync) (hlen : LengthMatches d) (hcrc : CrcMatches d) :
    frameParse d = .ok { ver := byteAt d 1, type := byteAt d 2, seq := byteAt d 3
                         length := le16 (byteAt d 4) (byteAt d 5)
                         payload := slice d 6 (6 + (le16 (byteAt d 4) (byteAt d 5)).toNat) } :=
  (frameParse_of_lengthMatches hsync hlen).trans (if_neg (not_not.mpr hcrc))

end

/-- The class and sub-reason of a check that fails (43_frame_rx.md R207). -/
def IsCheckFailure (cls : Status) (sub : Sub) : Prop :=
  (cls, sub) = (.formatError, .badSync) ∨ (cls, sub) = (.formatError, .badLength) ∨
    (cls, sub) = (.integrityError, .badCrc)

/-- Everything the parser can answer: it drops a short buffer, fails the number at the `seq` position, or all checks
hold. -/
theorem frameParse_cases (d : Bytes) :
    (d.length < 8 ∧ frameParse d = .tooShort) ∨
    (8 ≤ d.length ∧ ∃ cls sub, IsCheckFailure cls sub ∧ frameParse d = .fail cls sub (byteAt d 3)) ∨
    (byteAt d 0 = Config.sync ∧ LengthMatches d ∧ CrcMatches d ∧ ∃ f, frameParse d = .ok f) := by
  by_cases h8 : 8 ≤ d.length
  · refine .inr ?_
    by_cases hsync : byteAt d 0 = Config.sync
    · by_cases hlen : LengthMatches d
      · by_cases hcrc : CrcMatches d
        · exact .inr ⟨hsync, hlen, hcrc, _, frameParse_of_crcMatches hsync hlen hcrc⟩
        · exact .inl ⟨h8, _, _, .inr (.inr rfl), frameParse_of_badCrc hsync hlen hcrc⟩
      · exact .inl ⟨h8, _, _, .inr (.inl rfl), frameParse_of_badLength h8 hsync hlen⟩
    · exact .inl ⟨h8, _, _, .inl rfl, frameParse_of_badSync h8 hsync⟩
  · have hshort := Nat.lt_of_not_le h8
    exact .inl ⟨hshort, frameParse_of_short hshort⟩

/-! ## The checks on a buffer laid out byte by byte -/

section
variable (d0 d1 d2 d3 d4 d5 clo chi : Byte) (payload rest : Bytes)

theorem lengthMatches_layout_iff :
    LengthMatches ([d0, d1, d2, d3, d4, d5] ++ rest) ↔ rest.length = d4.toNat + 256 * d5.toNat + 2 := by
  have hfield : (le16 (byteAt ([d0, d1, d2, d3, d4, d5] ++ rest) 4)
      (byteAt ([d0, d1, d2, d3, d4, d5] ++ rest) 5)).toNat = d4.toNat + 256 * d5.toNat := le16_toNat d4 d5
  rw [LengthMatches, hfield, List.length_append]
  simp only [List.length_cons, List.length_nil]
  omega

theorem crcMatches_layout_iff : CrcMatches ([d0, d1, d2, d3, d4, d5] ++ (payload ++ [clo, chi])) ↔
    chi ++ clo = crc16 ([d1, d2, d3, d4, d5] ++ payload) := by
  have hlen : ([d0, d1, d2, d3, d4, d5] ++ payload).length = payload.length + 6 := by simp
  have hlast := byteAt_append_right ([d0, d1, d2, d3, d4, d5] ++ payload) [clo, chi]
  have hbody := slice_middle [d0] ([d1, d2, d3, d4, d5] ++ payload) [clo, chi]
  rw [hlen] at hlast
  rw [← List.append_assoc, CrcMatches, List.length_append, hlen]
  rw [List.length_append, List.length_singleton, show 1 + ([d1, d2, d3, d4, d5].length + payload.length) =
    payload.length + 6 by simp; omega] at hbody
  rw [← le16_eq_append]
  exact Eq.congr (congrArg₂ le16 (hlast 0) (hlast 1)) (congrArg crc16 hbody)

end

/-- Settles O28: each check, read off the layout, decides by its own equation. -/
theorem frameParseChecksInOrder : Obligations.FrameParseChecksInOrder := by
  intro d s
  refine ⟨frameParse d, exec_frameParse d s, frameParse_of_short, ?_⟩
  rintro d0 d1 d2 d3 d4 d5 rest rfl hrest
  have h8 : 8 ≤ ([d0, d1, d2, d3, d4, d5] ++ rest).length := by simpa using hrest
  refine ⟨frameParse_of_badSync h8, fun hsync hlen => ?_, ?_⟩
  · exact frameParse_of_badLength h8 hsync (mt (lengthMatches_layout_iff ..).mp hlen)
  · rintro payload clo chi hsync rfl hpayload
    have hlen := (lengthMatches_layout_iff d0 d1 d2 d3 d4 d5 (payload ++ [clo, chi])).mpr (by simpa using hpayload)
    have hcrc := crcMatches_layout_iff d0 d1 d2 d3 d4 d5 clo chi payload
    refine ⟨fun hne => frameParse_of_badCrc hsync hlen (mt hcrc.mp hne), fun heq => ?_⟩
    have hslice : slice ([d0, d1, d2, d3, d4, d5] ++ (payload ++ [clo, chi])) 6 (6 + (le16 d4 d5).toNat) = payload := by
      rw [le16_toNat, ← hpayload, ← List.append_assoc]
      exact slice_middle [d0, d1, d2, d3, d4, d5] payload [clo, chi]
    refine (frameParse_of_crcMatches (d := [d0, d1, d2, d3, d4, d5] ++ (payload ++ [clo, chi])) hsync hlen
      (hcrc.mpr heq)).trans ?_
    rw [← le16_eq_append]
    exact congrArg (fun p => ParseResult.ok ⟨d1, d2, d3, le16 d4 d5, p⟩) hslice

/-- Settles O12: `frameParse_rawFrame` at the `ver` byte that the builder writes. -/
theorem frameParseInvertsBuild : Obligations.FrameParseInvertsBuild := by
  intro type seq payload s hfits
  refine ⟨rawFrame Config.protoVer type seq payload, exec_frameBuild_of_le type seq hfits s, fun t => ?_⟩
  rw [exec_frameParse, frameParse_rawFrame Config.protoVer type seq hfits]
  rfl

/-! ## One changed byte

Two buffers that pass all the checks do not differ in exactly one byte: the sync byte is fixed, the CRC of the body
depends on each of its bytes (40_crc16.md R141), and the CRC bytes are fixed by the body. -/

theorem byteAt_set (d : Bytes) {i : Nat} (hi : i < d.length) (b : Byte) (j : Nat) :
    byteAt (d.set i b) j = if i = j then b else byteAt d j := by
  simp only [byteAt, List.getD_eq_getElem?_getD, List.getElem?_set]
  split_ifs <;> rfl

theorem getElem?_eq_some_byteAt {d : Bytes} {i : Nat} (hi : i < d.length) : d[i]? = some (byteAt d i) := by
  simp [byteAt, hi]

theorem slice_set_inside (d : Bytes) {i m : Nat} (hm : m ≤ i) (n : Nat) (b : Byte) :
    slice (d.set i b) m n = (slice d m n).set (i - m) b := by
  rw [slice, List.drop_set, if_neg (Nat.not_lt.mpr hm), List.take_set, slice]

theorem slice_set_behind (d : Bytes) {i m n : Nat} (hm : m ≤ i) (hn : n ≤ i) (b : Byte) :
    slice (d.set i b) m n = slice d m n := by
  rw [slice_set_inside d hm, List.set_eq_of_length_le]
  rw [slice, List.length_take]
  omega

theorem slice_getElem? (d : Bytes) {i m n : Nat} (hm : m ≤ i) (hn : i < n) : (slice d m n)[i - m]? = d[i]? := by
  rw [slice, List.getElem?_take_of_lt (by omega), List.getElem?_drop, Nat.add_sub_cancel' hm]

/-- 43_frame_rx.md R222, with the byte named by its position. -/
theorem getElem?_of_crc16_set_eq {x : Bytes} {i : Nat} {b : Byte} (hi : i < x.length)
    (h : crc16 (x.set i b) = crc16 x) : x[i]? = some b := by
  rw [List.getElem?_eq_getElem hi]
  by_contra hne
  rw [List.set_eq_take_append_cons_drop, if_pos hi] at h
  refine oneChangedByteChangesCrc (x.take i) (x.drop (i + 1)) x[i] b (fun heq => hne (congrArg some heq)) ?_
  rw [h, List.getElem_cons_drop hi, List.take_append_drop]

/-- A byte put into a buffer that passes the checks, so that the buffer still passes, is the byte that was there. (The
CRC covers the length field, so its own check adds nothing here.) -/
theorem getElem?_of_checks_set {d : Bytes} {i : Nat} {b : Byte} (h8 : 8 ≤ d.length) (hi : i < d.length)
    (hsync : byteAt d 0 = Config.sync) (hcrc : CrcMatches d)
    (hsync' : byteAt (d.set i b) 0 = Config.sync) (hcrc' : CrcMatches (d.set i b)) : d[i]? = some b := by
  rw [CrcMatches, List.length_set] at hcrc'
  obtain rfl | hpos := Nat.eq_zero_or_pos i
  · rw [byteAt_set d hi, if_pos rfl] at hsync'
    rw [getElem?_eq_some_byteAt hi, hsync, hsync']
  · by_cases hbody : i < d.length - 2
    · rw [byteAt_set d hi, byteAt_set d hi, if_neg (by omega), if_neg (by omega), hcrc,
        slice_set_inside d hpos] at hcrc'
      have hlength : i - 1 < (slice d 1 (d.length - 2)).length := by
        simp only [slice, List.length_take, List.length_drop]; omega
      have hbyte := getElem?_of_crc16_set_eq hlength hcrc'.symm
      rwa [slice_getElem? d hpos hbody] at hbyte
    · rw [slice_set_behind d hpos (Nat.not_lt.mp hbody), ← hcrc] at hcrc'
      obtain ⟨hlo, hhi⟩ := le16_injective hcrc'
      obtain rfl | rfl : i = d.length - 2 ∨ i = d.length - 1 := by omega
      · rw [getElem?_eq_some_byteAt hi, ← hlo, byteAt_set d hi, if_pos rfl]
      · rw [getElem?_eq_some_byteAt hi, ← hhi, byteAt_set d hi, if_pos rfl]

/-- Settles O31: the frame passes its checks, so the changed buffer, which is no shorter, does not. -/
theorem oneChangedByteFailsTheFrame : Obligations.OneChangedByteFailsTheFrame := by
  intro type seq payload raw i b s t hfits hbuild hraw hi hne
  cases (exec_frameBuild_of_le type seq hfits s).symm.trans hbuild
  cases hraw
  have hlength := rawFrame_length Config.protoVer type seq payload
  have hparse := frameParse_rawFrame Config.protoVer type seq hfits
  obtain ⟨hshort, -⟩ | ⟨-, cls, sub, -, hfail⟩ | ⟨hsync', -, hcrc', -⟩ :=
    frameParse_cases ((rawFrame Config.protoVer type seq payload).set i b)
  · rw [List.length_set] at hshort
    omega
  · refine ⟨cls, sub, ?_⟩
    rw [hfail, byteAt_set _ hi]
    rfl
  · obtain ⟨hshort, -⟩ | ⟨-, cls, sub, -, hfail⟩ | ⟨hsync, -, hcrc, -⟩ :=
      frameParse_cases (rawFrame Config.protoVer type seq payload)
    · omega
    · rw [hparse] at hfail
      cases hfail
    · exact absurd (getElem?_of_checks_set (by omega) hi hsync hcrc hsync' hcrc') hne

end Sys2Proof.Machine

namespace Sys2Proof.Machine

/-! ## The received command types

Each as an equation from the start of the operation, by whether the frame's number is pending. -/

section
variable (f : Frame) (s : State)

theorem exec_getmap : exec (.getmap f) s = .next (receiveGetmap f s.start) := rfl

theorem exec_setmap :
    exec (.setmap f) s = .next (s.start.resolveAndChain f.seq .saveAfterWrite Config.typeSave) := rfl

theorem exec_save : exec (.save f) s = .next (s.start.resolve f.seq .ok .none []) := rfl

theorem exec_load :
    exec (.load f) s = .next (s.start.resolveAndChain f.seq .fetchAfterLoad Config.typeGetmap) := rfl

theorem exec_resetdefault :
    exec (.resetdefault f) s = .next (s.start.resolveAndChain f.seq .fetchAfterReset Config.typeGetmap) := rfl

theorem exec_getinfo : exec (.getinfo f) s = .next (s.start.resolve f.seq .ok .none []) := rfl

/-- The flags are cleared before the request is looked up (43_frame_rx.md R219). -/
theorem exec_error : exec (.error f) s = .next (s.clearFlags.start.resolve f.seq .deviceError .none f.payload) := rfl

end

section
variable {s : State} {k : Byte}

theorem State.resolveAndChain_none (h : s.pendAt k = none) (g : ChainFlag) (next : Byte) :
    s.resolveAndChain k g next = s := by
  rw [State.resolveAndChain, h]

theorem State.setFlag_of_flag_eq {g : ChainFlag} {v : Bool} (h : s.flag g = v) : s.setFlag v g = s := by
  cases g <;> cases h <;> rfl

theorem State.resolve_flag (status : Status) (sub : Sub) (reason : Bytes) (g : ChainFlag) :
    (s.resolve k status sub reason).flag g = s.flag g := by
  cases h : s.pendAt k with
  | none => rw [State.resolve_none h]
  | some e => rw [State.resolve_some h]; cases g <;> rfl

/-- An answer whose flag is 0 resolves its request and no more. -/
theorem State.resolveAndChain_of_not_flag {g : ChainFlag} (hg : s.flag g = false) (next : Byte) :
    s.resolveAndChain k g next = s.resolve k .ok .none [] := by
  obtain ⟨hnone, heq⟩ | ⟨e, -, ⟨-, heq⟩ | ⟨hset, -⟩⟩ := s.resolveAndChain_cases k g next
  · rw [heq, State.resolve_none hnone]
  · rw [heq, State.setFlag_of_flag_eq ((State.resolve_flag ..).trans hg)]
  · rw [hg] at hset; cases hset

/-- An answer whose flag is 1 resolves its request, clears the flag and sends. -/
theorem State.resolveAndChain_of_flag {e : PendEntry} (h : s.pendAt k = some e) {g : ChainFlag} (hg : s.flag g = true)
    (next : Byte) : s.resolveAndChain k g next =
      ((s.resolve k .ok .none []).setFlag false g).sendFrame next [] false := by
  obtain ⟨hnone, -⟩ | ⟨e, -, ⟨hclear, -⟩ | ⟨-, heq⟩⟩ := s.resolveAndChain_cases k g next
  · rw [h] at hnone; cases hnone
  · rw [hg] at hclear; cases hclear
  · exact heq

/-! From the start of the operation there is no event yet, so those of the answer are all. -/

theorem State.start_resolve_none (h : s.pendAt k = none) (status : Status) (sub : Sub) (reason : Bytes) :
    s.start.resolve k status sub reason = s.start := State.resolve_none (s := s.start) h status sub reason

theorem State.start_resolve_some {e : PendEntry} (h : s.pendAt k = some e) (status : Status) (sub : Sub)
    (reason : Bytes) : s.start.resolve k status sub reason = { s.start with
      pend := s.pend.set k.toNat none k.isLt
      events := [.notify e.cmd k status sub reason] } := State.resolve_some (s := s.start) h status sub reason

@[simp] theorem State.flag_start (s : State) (g : ChainFlag) : s.start.flag g = s.flag g := by cases g <;> rfl

theorem State.start_resolveAndChain_of_flag {e : PendEntry} (h : s.pendAt k = some e) {g : ChainFlag}
    (hg : s.flag g = true) (next : Byte) : ∃ c, s.start.resolveAndChain k g next = State.setFlag { s.start with
      pend := (s.pend.set k.toNat none k.isLt).set s.seqNext.toNat
        (some { cmd := next, deadline := s.now + Config.timeoutMs }) s.seqNext.isLt
      seqNext := s.seqNext + 1
      events := [.notify e.cmd k .ok .none [], .tx (wireFrame Config.protoVer next s.seqNext [])]
      seqCollision := c } false g := by
  refine ⟨(s.start.resolveAndChain k g next).seqCollision, ?_⟩
  rw [State.resolveAndChain_of_flag (s := s.start) h ((s.flag_start g).trans hg), State.start_resolve_some h,
    State.sendFrame_registered]
  cases g <;> rfl

end

/-- Settles O32: both answer the start of the operation. -/
theorem pingAndPongIgnored : Obligations.PingAndPongIgnored := fun _ _ => ⟨rfl, rfl⟩

/-- Settles O33: GETMAP looks the number up, the others resolve or chain it, and each does nothing where it is not
pending. -/
theorem unmatchedAnswersHaveNoEffect : Obligations.UnmatchedAnswersHaveNoEffect := by
  intro f s hnone
  have hgetmap : receiveGetmap f s.start = s.start := by rw [receiveGetmap, State.pendAt_start, hnone]
  have hresolve := State.start_resolve_none hnone .ok .none []
  have hchain := State.resolveAndChain_none (s := s.start) hnone
  simp only [List.forall_mem_cons, exec_getmap, exec_setmap, exec_save, exec_load, exec_resetdefault, exec_getinfo,
    hgetmap, hresolve, hchain]
  exact ⟨rfl, rfl, rfl, rfl, rfl, rfl, List.forall_mem_nil _⟩

/-- Settles O34, by the three cases of a GetMap answer. -/
theorem getmapAnswerReplacesWorkOrFails : Obligations.GetmapAnswerReplacesWorkOrFails := by
  intro f s
  refine ⟨fun hnone => unmatchedAnswersHaveNoEffect f s hnone _ (.head _), fun e he => ?_⟩
  obtain ⟨hnone, -⟩ | ⟨e', w, he', hok, heq⟩ | ⟨e', cls, sub, he', herr, heq⟩ := receiveGetmap_cases f s.start
  · cases he.symm.trans hnone
  · cases he.symm.trans he'
    refine ⟨fun m hm => ?_, fun cls sub herr => ?_⟩
    · cases hm.symm.trans hok
      exact congrArg Host.Outcome.next heq
    · cases herr.symm.trans hok
  · refine ⟨fun m hm => ?_, fun cls sub herr' => ?_⟩
    · cases hm.symm.trans herr
    · cases herr'.symm.trans herr
      exact congrArg Host.Outcome.next (heq.trans (State.start_resolve_some he cls sub []))

/-- Settles O35: both are a Resolve from the start of the operation. -/
theorem saveAndGetinfoAnswersResolveTheirRequest : Obligations.SaveAndGetinfoAnswersResolveTheirRequest := by
  intro f s i hi
  have hexec : exec i s = .next (s.start.resolve f.seq .ok .none []) := by
    obtain rfl | rfl : i = .save f ∨ i = .getinfo f := by simpa using hi
    · exact exec_save f s
    · exact exec_getinfo f s
  rw [hexec]
  exact ⟨fun hnone => congrArg Host.Outcome.next (State.start_resolve_none hnone .ok .none []),
    fun e he => congrArg Host.Outcome.next (State.start_resolve_some he .ok .none [])⟩

/-- Settles O37: the flags are cleared first, then the request is resolved. -/
theorem errorFrameClearsFlagsAndFails : Obligations.ErrorFrameClearsFlagsAndFails := by
  intro f s cleared
  rw [exec_error]
  exact ⟨fun hnone => congrArg Host.Outcome.next (State.start_resolve_none (s := s.clearFlags) hnone _ _ _),
    fun e he => congrArg Host.Outcome.next (State.start_resolve_some (s := s.clearFlags) he _ _ _)⟩

/-- Settles O36: with the flag 0 the answer is a Resolve; with the flag 1 it is the Resolve, the cleared flag and the
send of the next command. -/
theorem chainableAnswersResolveAndChain : Obligations.ChainableAnswersResolveAndChain := by
  intro f s chained
  refine ⟨fun p hp => ?_, fun e he => ⟨fun hg => ?_, fun hg => ?_, fun hg => ?_⟩⟩
  · obtain ⟨g, next, hflag, hexec⟩ : ∃ g next, s.flag g = p.2 ∧
        exec p.1 s = .next (s.start.resolveAndChain f.seq g next) := by
      obtain rfl | rfl | rfl : p = (.setmap f, s.saveAfterWrite) ∨ p = (.load f, s.fetchAfterLoad) ∨
        p = (.resetdefault f, s.fetchAfterReset) := by simpa using hp
      · exact ⟨_, _, rfl, exec_setmap f s⟩
      · exact ⟨_, _, rfl, exec_load f s⟩
      · exact ⟨_, _, rfl, exec_resetdefault f s⟩
    rw [hexec]
    refine ⟨fun hnone => congrArg Host.Outcome.next (State.resolveAndChain_none (s := s.start) hnone g next),
      fun e he hclear => congrArg Host.Outcome.next ?_⟩
    rw [State.resolveAndChain_of_not_flag (by rw [State.flag_start, hflag, hclear]), State.start_resolve_some he]
    rfl
  · obtain ⟨c, hc⟩ := State.start_resolveAndChain_of_flag (g := .saveAfterWrite) he hg Config.typeSave
    exact ⟨c, congrArg Host.Outcome.next hc⟩
  · obtain ⟨c, hc⟩ := State.start_resolveAndChain_of_flag (g := .fetchAfterLoad) he hg Config.typeGetmap
    exact ⟨c, congrArg Host.Outcome.next hc⟩
  · obtain ⟨c, hc⟩ := State.start_resolveAndChain_of_flag (g := .fetchAfterReset) he hg Config.typeGetmap
    exact ⟨c, congrArg Host.Outcome.next hc⟩

end Sys2Proof.Machine

namespace Sys2Proof.Machine

/-! ## Received bytes: the accumulator

RX.BYTE as an operation from a state whose accumulator is in range, by the byte. -/

theorem exec_rxByte {s : State} (b : Byte) (h : s.rxLen ≤ s.params.rxBufCap) :
    exec (.rxByte b) s = .next (s.start.rxByte b) := execRxByte_of_le b h

theorem exec_rxByte_data {s : State} {b : Byte} (hb : b ≠ Config.term) (h : s.rxLen ≤ s.params.rxBufCap) :
    exec (.rxByte b) s = .next (s.start.accumulate b) := by
  rw [exec_rxByte b h, State.rxByte_data _ hb]

theorem exec_rxByte_term {s : State} (h : s.rxLen ≤ s.params.rxBufCap) :
    exec (.rxByte Config.term) s = .next s.start.closeFrame := by
  rw [exec_rxByte Config.term h, State.rxByte_term]

/-- The terminator of a frame that did not overflow: the accumulator is emptied, then the frame is received. -/
theorem exec_rxByte_frame {s : State} (h : s.rxLen ≤ s.params.rxBufCap) (hovf : s.rxOvf = false) :
    exec (.rxByte Config.term) s =
      .next (State.receiveFrame (State.start { s with rxLen := 0 }) (s.rxbuf.readBytes 0 s.rxLen)) := by
  rw [exec_rxByte_term h]
  obtain ⟨hset, -⟩ | ⟨-, hclose⟩ := s.start.closeFrame_cases
  · cases hovf.symm.trans hset
  · rw [hclose, State.resetAccumulator, ← hovf]
    rfl

/-- Settles O22: the byte read back is the one written, which is not what an unlisted index reads as. -/
theorem rxByteAppends : Obligations.RxByteAppends := by
  intro b s hb hroom
  refine ⟨s.rxbuf.write s.rxLen b, ?_, fun a => ?_⟩
  · rw [exec_rxByte_data hb hroom.le]
    obtain ⟨-, heq⟩ | ⟨hfull, -⟩ := s.start.accumulate_cases b
    · rw [heq]
      rfl
    · exact absurd hroom hfull.not_gt
  · split_ifs with ha
    · rw [ha, Memory.read_write_same s.rxLen hb]
    · exact Memory.read_write_other b ha s.rxbuf

/-- Settles O23: the full accumulator's case of a byte, and the overflowed frame's case of a terminator. -/
theorem overflowDropsTheFrame : Obligations.OverflowDropsTheFrame := by
  intro b s hfull
  refine ⟨fun hb => ?_, fun hovf => ?_⟩
  · rw [exec_rxByte_data hb hfull.le]
    obtain ⟨hroom, -⟩ | ⟨-, heq⟩ := s.start.accumulate_cases b
    · exact absurd hroom hfull.not_lt
    · rw [heq]
      rfl
  · refine (exec_rxByte_term hfull.le).trans ?_
    obtain ⟨-, heq⟩ | ⟨hclear, -⟩ := s.start.closeFrame_cases
    · rw [heq]
      rfl
    · cases hovf.symm.trans hclear

/-! ## Received bytes: the frame -/

theorem State.receiveFrame_of_tooShort {y d : Bytes} (hd : cobsDec y = .ok d) (hp : Machine.frameParse d = .tooShort)
    (s : State) : s.receiveFrame y = s := by
  simp only [State.receiveFrame, hd, hp]

theorem State.receiveFrame_of_fail {y d : Bytes} {cls : Status} {sub : Sub} {k : Byte} (hd : cobsDec y = .ok d)
    (hp : Machine.frameParse d = .fail cls sub k) (s : State) : s.receiveFrame y = s.resolve k cls sub [] := by
  simp only [State.receiveFrame, hd, hp]

/-- A type that names no instruction has no effect (43_frame_rx.md R220). -/
theorem dispatchFrame_of_reserved {type : Byte}
    (h : type ∉ ([0x01, 0x02, 0x10, 0x11, 0x12, 0x13, 0x14, 0x15, 0x7F] : List Byte)) (f : Frame) (s : State) :
    dispatchFrame type f s = s := by
  simp only [List.mem_cons, List.not_mem_nil, or_false, not_or] at h
  simp only [dispatchFrame, Config.typePing, Config.typePong, Config.typeGetmap, Config.typeSetmap, Config.typeSave,
    Config.typeLoad, Config.typeResetdefault, Config.typeGetinfo, Config.typeError, h, if_false]

/-- Settles O26: the parser's failures are those of `frameParse_cases`, and the number they report is resolved. -/
theorem failedCheckResolvesPendingRequest : Obligations.FailedCheckResolvesPendingRequest := by
  intro s d hle hovf hd dropped
  have hexec : exec (.rxByte 0) s = _ := exec_rxByte_frame hle hovf
  refine ⟨fun hshort => ?_, fun cls sub k hfail => ?_⟩
  · rw [hexec, State.receiveFrame_of_tooShort hd (frameParse_of_short hshort)]
    rfl
  · rw [hexec, State.receiveFrame_of_fail hd hfail]
    obtain ⟨-, hparse⟩ | ⟨h8, cls', sub', hclass, hparse⟩ | ⟨-, -, -, f, hparse⟩ := frameParse_cases d
    · cases hfail.symm.trans hparse
    · cases hfail.symm.trans hparse
      exact ⟨getElem?_eq_some_byteAt (by omega), h8, hclass,
        fun hnone => congrArg Host.Outcome.next (State.start_resolve_none (s := { s with rxLen := 0 }) hnone cls sub []),
        fun e he => congrArg Host.Outcome.next (State.start_resolve_some (s := { s with rxLen := 0 }) he cls sub [])⟩
    · cases hfail.symm.trans hparse

/-- Settles O27: the frame is dispatched, and the dispatch of a command type is its instruction. -/
theorem validFrameRunsItsInstruction : Obligations.ValidFrameRunsItsInstruction := by
  intro s d f hle hovf hd hp fr at0
  have hexec : exec (.rxByte 0) s = .next (dispatchFrame f.type fr at0.start) :=
    (exec_rxByte_frame hle hovf).trans (congrArg Host.Outcome.next (State.receiveFrame_of_parsed hd hp _))
  refine ⟨fun p hmem htype => ?_, fun hreserved => ?_⟩
  · have hinstr : frameInstr p.1 fr = some p.2 := by
      revert p
      simp only [List.forall_mem_cons]
      exact ⟨fun _ => rfl, fun _ => rfl, fun _ => rfl, fun _ => rfl, fun _ => rfl, fun _ => rfl, fun _ => rfl,
        fun _ => rfl, fun _ => rfl, List.forall_mem_nil _⟩
    rw [hexec, htype, exec_frameInstr hinstr]
  · rw [hexec, dispatchFrame_of_reserved hreserved]
    rfl

/-! ## What the outputs collect

Every operation of the receive path appends its events to those that are there, only raises the model's flag, and leaves
the result (logs 5, 6): it commutes with putting earlier outputs in front. So received bytes can be cut anywhere. -/

/-- The state behind earlier outputs. -/
def State.behind (s : State) (es : List Event) (c : Bool) (r : Result) : State :=
  { s with result := r, events := es ++ s.events, seqCollision := c || s.seqCollision }

/-- The operation neither reads the outputs nor changes what is there. -/
def AppendsOutputs (f : State → State) : Prop :=
  ∀ (s : State) (es : List Event) (c : Bool) (r : Result), f (s.behind es c r) = (f s).behind es c r

namespace AppendsOutputs

theorem keeps_result {f : State → State} (hf : AppendsOutputs f) (s : State) : (f s).result = s.result := by
  have hs : s.behind [] false s.result = s := by simp [State.behind]
  have h := hf s [] false s.result
  rw [hs] at h
  rw [h]
  rfl

theorem comp {f g : State → State} (hf : AppendsOutputs f) (hg : AppendsOutputs g) :
    AppendsOutputs fun s => f (g s) := fun s es c r =>
  (congrArg f (hg s es c r)).trans (hf (g s) es c r)

theorem emit (e : Event) : AppendsOutputs fun s => s.emit e := fun s es c r => by
  simp [State.emit, State.behind]

theorem setFlag (v : Bool) (g : ChainFlag) : AppendsOutputs fun s => s.setFlag v g := by
  cases g <;> exact fun _ _ _ _ => rfl

theorem sendFrame (type : Byte) (payload : Bytes) (silent : Bool) :
    AppendsOutputs fun s => s.sendFrame type payload silent := fun s es c r => by
  have hpend (k : Byte) : (s.behind es c r).pendAt k = s.pendAt k := rfl
  simp only [State.sendFrame_eq, hpend]
  simp only [State.behind, List.append_assoc, Bool.or_assoc]

theorem resolve (k : Byte) (status : Status) (sub : Sub) (reason : Bytes) :
    AppendsOutputs fun s => s.resolve k status sub reason := fun s es c r => by
  have hpend : (s.behind es c r).pendAt k = s.pendAt k := rfl
  cases h : s.pendAt k with
  | none => simp only [State.resolve_none h, State.resolve_none (hpend.trans h)]
  | some e =>
    simp only [State.resolve_some h, State.resolve_some (hpend.trans h)]
    simp only [State.behind, List.append_assoc]

theorem resolveAndChain (k : Byte) (g : ChainFlag) (next : Byte) :
    AppendsOutputs fun s => s.resolveAndChain k g next := fun s es c r => by
  have hflag : (s.behind es c r).flag g = s.flag g := by cases g <;> rfl
  cases h : s.pendAt k with
  | none => simp only [State.resolveAndChain_none h, State.resolveAndChain_none (s := s.behind es c r) h]
  | some e =>
    cases hg : s.flag g with
    | false =>
      simp only [State.resolveAndChain_of_not_flag hg, State.resolveAndChain_of_not_flag (hflag.trans hg)]
      exact resolve k .ok .none [] s es c r
    | true =>
      simp only [State.resolveAndChain_of_flag h hg,
        State.resolveAndChain_of_flag (s := s.behind es c r) h (hflag.trans hg)]
      exact (sendFrame next [] false).comp ((setFlag false g).comp (resolve k .ok .none [])) s es c r

theorem receiveGetmap (f : Frame) : AppendsOutputs (Machine.receiveGetmap f) := fun s es c r => by
  have hpend : (s.behind es c r).pendAt f.seq = s.pendAt f.seq := rfl
  have hdec : cfgDec (s.behind es c r).params.kindMacro f.payload (s.behind es c r).defMap =
      cfgDec s.params.kindMacro f.payload s.defMap := rfl
  simp only [Machine.receiveGetmap, hpend, hdec]
  cases s.pendAt f.seq with
  | none => rfl
  | some e =>
    cases cfgDec s.params.kindMacro f.payload s.defMap with
    | ok m => exact (emit .configUpdated).comp (resolve f.seq .ok .none []) { s with work := m } es c r
    | err cls sub => exact resolve f.seq cls sub [] s es c r

theorem receiveError (f : Frame) : AppendsOutputs (Machine.receiveError f) :=
  (resolve f.seq .deviceError .none f.payload).comp (g := State.clearFlags) fun _ _ _ _ => rfl

theorem dispatchFrame (type : Byte) (f : Frame) : AppendsOutputs (Machine.dispatchFrame type f) := fun s es c r => by
  unfold Machine.dispatchFrame
  split_ifs
  · rfl
  · rfl
  · exact receiveGetmap f s es c r
  · exact resolveAndChain f.seq .saveAfterWrite Config.typeSave s es c r
  · exact resolve f.seq .ok .none [] s es c r
  · exact resolveAndChain f.seq .fetchAfterLoad Config.typeGetmap s es c r
  · exact resolveAndChain f.seq .fetchAfterReset Config.typeGetmap s es c r
  · exact resolve f.seq .ok .none [] s es c r
  · exact receiveError f s es c r
  · rfl

theorem receiveFrame (y : Bytes) : AppendsOutputs fun s => s.receiveFrame y := fun s es c r => by
  unfold State.receiveFrame
  cases cobsDec y with
  | err cls sub => rfl
  | ok d =>
    dsimp only
    cases Machine.frameParse d with
    | tooShort => rfl
    | fail cls sub k => exact resolve k cls sub [] s es c r
    | ok f => exact dispatchFrame f.type _ s es c r

theorem closeFrame : AppendsOutputs State.closeFrame := fun s es c r => by
  have hreceive := receiveFrame (s.rxbuf.readBytes 0 s.rxLen) s.resetAccumulator es c r
  cases h : s.rxOvf with
  | true => simp only [State.closeFrame, State.behind, h]; rfl
  | false => simp only [State.closeFrame, State.behind, h]; exact hreceive

theorem accumulate (b : Byte) : AppendsOutputs fun s => s.accumulate b := fun s es c r => by
  by_cases h : s.rxLen < s.params.rxBufCap
  · simp only [State.accumulate, State.behind, h, if_true]
  · simp only [State.accumulate, State.behind, h, if_false]

theorem rxByte (b : Byte) : AppendsOutputs fun s => s.rxByte b := by
  by_cases hb : b = Config.term
  · subst hb
    simpa only [State.rxByte_term] using closeFrame
  · simpa only [State.rxByte_data _ hb] using accumulate b

theorem rxBytes (x : Bytes) : AppendsOutputs fun s => s.rxBytes x := by
  induction x with
  | nil => exact fun _ _ _ _ => rfl
  | cons b x ih => exact ih.comp (rxByte b)

end AppendsOutputs

/-! ## The accumulator behind a terminator -/

theorem closeFrame_empties (s : State) :
    s.closeFrame.rxLen = 0 ∧ s.closeFrame.rxOvf = false ∧ s.closeFrame.rxbuf = s.rxbuf := by
  obtain ⟨-, h⟩ | ⟨-, h⟩ := s.closeFrame_cases <;> rw [h]
  · exact ⟨rfl, rfl, rfl⟩
  · have hreceive := IgnoresAccumulator.receiveFrame (s.rxbuf.readBytes 0 s.rxLen)
    obtain ⟨hbuf, hlen, hovf⟩ := hreceive.keeps_accumulator s.resetAccumulator
    exact ⟨hlen, hovf, hbuf⟩

/-- Settles O24: the frame's effect is the session's, which leaves the emptied accumulator. -/
theorem terminatorEmptiesAccumulator : Obligations.TerminatorEmptiesAccumulator := by
  intro s hle
  obtain ⟨hlen, hovf, hbuf⟩ := closeFrame_empties s.start
  have heffect : SessionEffect s.start s.start.closeFrame := by
    simpa only [State.rxByte_term] using SessionEffect.rxByte s.start Config.term
  exact ⟨s.start.closeFrame, exec_rxByte_term hle, hlen, hovf, fun a => by rw [hbuf]; rfl, heffect.crcAcc, heffect.now,
    heffect.defMap, heffect.params, heffect.inbox, AppendsOutputs.closeFrame.keeps_result s.start⟩

/-! ## Cutting received bytes -/

/-- 20_memory.md R77: `rx_len` does not pass the capacity. -/
theorem rxByte_keeps_rxLen_le {s : State} (h : s.rxLen ≤ s.params.rxBufCap) (b : Byte) :
    (s.rxByte b).rxLen ≤ (s.rxByte b).params.rxBufCap := by
  rw [(SessionEffect.rxByte s b).params]
  by_cases hb : b = Config.term
  · rw [hb, State.rxByte_term, (closeFrame_empties s).1]
    exact Nat.zero_le _
  · rw [State.rxByte_data s hb]
    obtain ⟨hroom, heq⟩ | ⟨-, heq⟩ := s.accumulate_cases b <;> rw [heq]
    · exact hroom
    · exact h

theorem rxBytes_keeps_rxLen_le : ∀ (x : Bytes) {s : State}, s.rxLen ≤ s.params.rxBufCap →
    (s.rxBytes x).rxLen ≤ (s.rxBytes x).params.rxBufCap
  | [], _, h => h
  | b :: x, _, h => rxBytes_keeps_rxLen_le x (rxByte_keeps_rxLen_le h b)

/-- The start of an operation drops the outputs, and nothing else. -/
theorem State.start_behind (s : State) : s.start.behind s.events s.seqCollision s.result = s := by
  simp [State.start, State.behind]

theorem exec_rxChunk {s : State} (x : Bytes) (h : s.rxLen ≤ s.params.rxBufCap) :
    exec (.rxChunk x) s = .next (s.start.rxBytes x) := execRxChunk_of_le x h

/-- Settles O29: the second part runs as it would from the start of an operation, behind the outputs of the first. -/
theorem chunkingHasNoEffect : Obligations.ChunkingHasNoEffect := by
  refine ⟨fun b s => rfl, fun s => ?_, fun x y s hle => ?_⟩
  · have hinside : s.readsOutside [] = false := Bool.and_false _
    exact if_neg (by rw [hinside]; exact Bool.false_ne_true)
  · have hresult : (s.start.rxBytes x).result = .unit := (AppendsOutputs.rxBytes x).keeps_result s.start
    generalize ht : s.start.rxBytes x = t at hresult
    have hle' : t.rxLen ≤ t.params.rxBufCap := ht ▸ rxBytes_keeps_rxLen_le x (s := s.start) hle
    refine ⟨t, t.start.rxBytes y, ht ▸ exec_rxChunk x hle, exec_rxChunk y hle', ?_⟩
    have hbehind : t.rxBytes y = (t.start.rxBytes y).behind t.events t.seqCollision t.result := by
      rw [← AppendsOutputs.rxBytes y t.start, State.start_behind]
    have hunit : (t.start.rxBytes y).result = t.result :=
      ((AppendsOutputs.rxBytes y).keeps_result t.start).trans hresult.symm
    rw [exec_rxChunk (x ++ y) hle, State.rxBytes_append, ht, hbehind, ← hunit]
    rfl

end Sys2Proof.Machine

namespace Sys2Proof.Machine

/-! ## The requests of the session

A SEND that registers writes the number's entry and the outputs; a REQ operation with a flag sets that too. -/

/-- The state in which a request of a type is sent and registered (42_frame_tx.md R186). -/
def State.requested (s : State) (type : Byte) (payload : Bytes) : State := { s with
  seqNext := s.seqNext + 1
  pend := s.pend.set s.seqNext.toNat (some { cmd := type, deadline := s.now + Config.timeoutMs }) s.seqNext.isLt
  events := [.tx (wireFrame Config.protoVer type s.seqNext payload)]
  result := .seq s.seqNext
  seqCollision := (s.pendAt s.seqNext).isSome }

section
variable (s : State) (type : Byte) (payload : Bytes)

theorem State.requested_pendAt : (s.requested type payload).pendAt s.seqNext =
    some { cmd := type, deadline := s.now + Config.timeoutMs } :=
  s.pendAt_setPend_same s.seqNext _

variable {payload}

theorem State.sendOp_eq_requested (hfits : payload.length ≤ Config.maxPayload) :
    s.sendOp id type payload false = s.requested type payload := by
  rw [State.sendOp_of_le s id type false hfits, State.sendFrame_registered]
  rfl

/-- The flag a request sets before it sends may as well be set behind the send: a send reads and writes no flag. -/
theorem State.sendOp_requestFlag_eq_requested (g : ChainFlag) (bit : Bool)
    (hfits : payload.length ≤ Config.maxPayload) :
    s.sendOp (fun u => u.requestFlag g bit) type payload false = (s.requested type payload).requestFlag g bit := by
  rw [State.sendOp_of_le s _ type false hfits, State.sendFrame_registered]
  cases bit with
  | false => rfl
  | true => cases g <;> rfl

end

section
variable (s : State) (bit : Bool)

/-! 44_session.md R257: the bit 1 sets the flag, the bit 0 leaves it. -/

theorem State.requestFlag_saveAfterWrite : s.requestFlag .saveAfterWrite bit =
    { s with saveAfterWrite := if bit then true else s.saveAfterWrite } := by cases bit <;> rfl

theorem State.requestFlag_fetchAfterLoad : s.requestFlag .fetchAfterLoad bit =
    { s with fetchAfterLoad := if bit then true else s.fetchAfterLoad } := by cases bit <;> rfl

theorem State.requestFlag_fetchAfterReset : s.requestFlag .fetchAfterReset bit =
    { s with fetchAfterReset := if bit then true else s.fetchAfterReset } := by cases bit <;> rfl

/-! Each REQ operation as an equation. -/

theorem exec_reqPing : exec .reqPing s = .next ((s.start.sendFrame Config.typePing [] true).finish (.seq s.seqNext)) :=
  congrArg Host.Outcome.next (s.sendOp_of_le id Config.typePing true (Nat.zero_le _))

theorem exec_reqGetmap : exec .reqGetmap s = .next (s.requested Config.typeGetmap []) :=
  congrArg Host.Outcome.next (s.sendOp_eq_requested Config.typeGetmap (Nat.zero_le _))

theorem exec_reqSave : exec .reqSave s = .next (s.requested Config.typeSave []) :=
  congrArg Host.Outcome.next (s.sendOp_eq_requested Config.typeSave (Nat.zero_le _))

theorem exec_reqGetinfo : exec .reqGetinfo s = .next (s.requested Config.typeGetinfo []) :=
  congrArg Host.Outcome.next (s.sendOp_eq_requested Config.typeGetinfo (Nat.zero_le _))

theorem exec_reqLoad : exec (.reqLoad bit) s =
    .next ((s.requested Config.typeLoad []).requestFlag .fetchAfterLoad bit) :=
  congrArg Host.Outcome.next (s.sendOp_requestFlag_eq_requested Config.typeLoad .fetchAfterLoad bit (Nat.zero_le _))

theorem exec_reqResetdefault : exec (.reqResetdefault bit) s =
    .next ((s.requested Config.typeResetdefault []).requestFlag .fetchAfterReset bit) :=
  congrArg Host.Outcome.next
    (s.sendOp_requestFlag_eq_requested Config.typeResetdefault .fetchAfterReset bit (Nat.zero_le _))

/-- The diff of a valid keymap fits a frame (60_exceptions.md R328). -/
theorem exec_reqSetmap_of_valid (hwork : keymapValid s.work) : exec (.reqSetmap bit) s =
    .next ((s.requested Config.typeSetmap (cfgEnc s.params.kindMacro s.work s.defMap)).requestFlag
      .saveAfterWrite bit) :=
  congrArg Host.Outcome.next (s.sendOp_requestFlag_eq_requested Config.typeSetmap .saveAfterWrite bit
    (cfgEnc_length_le_maxPayload s.params.kindMacro hwork s.defMap))

end

/-- Settles O16: each operation's equation; all four flag the same entry (log 6). -/
theorem plainRequestsSendTheirType : Obligations.PlainRequestsSendTheirType := by
  intro s
  refine ⟨(s.pendAt s.seqNext).isSome, exec_reqPing s, ?_⟩
  simp only [List.forall_mem_cons]
  exact ⟨exec_reqGetmap s, exec_reqSave s, exec_reqGetinfo s, List.forall_mem_nil _⟩

/-- Settles O17: each is the request with its flag as the bit asks. -/
theorem loadAndResetdefaultRequestsSetTheirFlag : Obligations.LoadAndResetdefaultRequestsSetTheirFlag := by
  intro fetch s
  refine ⟨(s.pendAt s.seqNext).isSome, ?_, ?_⟩
  · rw [exec_reqLoad, State.requestFlag_fetchAfterLoad]
    rfl
  · rw [exec_reqResetdefault, State.requestFlag_fetchAfterReset]
    rfl

/-- Settles O18: both operations encode the same keymap, whose diff fits a frame. -/
theorem setmapRequestSendsTheDiff : Obligations.SetmapRequestSendsTheDiff := by
  intro save s hwork
  refine ⟨(s.pendAt s.seqNext).isSome, cfgEnc s.params.kindMacro s.work s.defMap, rfl, ?_⟩
  rw [exec_reqSetmap_of_valid s save hwork, State.requestFlag_saveAfterWrite]
  rfl

/-! ## TICK -/

theorem exec_tick_of_lt {t : Nat} {s : State} (h : t < s.now) : exec (.tick t) s = .next (s.refuse .timeBackwards) := by
  obtain ⟨-, heq⟩ | ⟨hle, -⟩ := execTick_cases t s
  · exact heq
  · exact absurd h hle.not_gt

theorem exec_tick_of_le {t : Nat} {s : State} (h : s.now ≤ t) : ∃ u, exec (.tick t) s = .next u ∧
    u = { s.start with now := t, pend := u.pend, events := s.timeouts t } ∧
    ∀ k : Byte, u.pendAt k = (s.pendAt k).filter fun e => decide (t < e.deadline) := by
  obtain ⟨hlt, -⟩ | ⟨-, hnext⟩ := execTick_cases t s
  · exact absurd h hlt.not_ge
  · exact hnext

theorem allSeqs_nodup : allSeqs.Nodup := by
  refine List.nodup_range.map_on fun m hm n hn heq => ?_
  have hnat := congrArg BitVec.toNat heq
  rwa [BitVec.toNat_ofNat, BitVec.toNat_ofNat, Nat.mod_eq_of_lt (List.mem_range.mp hm),
    Nat.mod_eq_of_lt (List.mem_range.mp hn)] at hnat

/-- The report of a TICK, number by number: an entry that has expired is reported under its number. -/
theorem State.timeouts_eq (s : State) (t : Nat) : s.timeouts t = allSeqs.filterMap fun k =>
    ((s.pendAt k).filter (·.expired t)).map fun e => .notify e.cmd k .timeoutError .none [] := by
  refine List.filterMap_congr fun k _ => ?_
  cases s.pendAt k with
  | none => rfl
  | some e => cases h : e.expired t <;> simp [Option.filter, h]

/-- No timeout is reported twice: each number is scanned once, and the report names it. -/
theorem State.timeouts_nodup (s : State) (t : Nat) : (s.timeouts t).Nodup := by
  rw [State.timeouts_eq]
  refine allSeqs_nodup.filterMap fun k j ev hk hj => ?_
  obtain ⟨e, -, rfl⟩ := Option.map_eq_some_iff.mp hk
  obtain ⟨e', -, hnotify⟩ := Option.map_eq_some_iff.mp hj
  obtain ⟨-, hseq, -⟩ := Event.notify.inj hnotify
  exact hseq.symm

/-- Settles O20. -/
theorem tickBackwardsRefused : Obligations.TickBackwardsRefused := fun _ _ h => exec_tick_of_lt h

/-- Settles O19: what a TICK leaves and reports, and that it reports nothing twice. -/
theorem tickExpiresExactlyDueEntries : Obligations.TickExpiresExactlyDueEntries := by
  intro t s hle
  obtain ⟨u, hexec, hu, hpend⟩ := exec_tick_of_le hle
  have hevents : u.events = s.timeouts t := by rw [hu]
  refine ⟨u, hexec, ?_, hpend, fun ev => ?_, ?_⟩
  · rw [hevents]
    exact hu
  · rw [hevents]
    exact s.mem_timeouts t ev
  · rw [hevents]
    exact s.timeouts_nodup t

/-- Settles O21: the entry that the SEND registers, through the TICK. -/
theorem timeoutExactlyAtDeadline : Obligations.TimeoutExactlyAtDeadline := by
  intro type payload s t hfits hle
  have hsent := s.requested_pendAt type payload
  obtain ⟨u, htick, -, hpend, hevents, -⟩ := tickExpiresExactlyDueEntries t (s.requested type payload) hle
  have hleft := hpend s.seqNext
  rw [hsent] at hleft
  refine ⟨s.requested type payload, u, congrArg Host.Outcome.next (s.sendOp_eq_requested type hfits), htick,
    fun hbefore => ?_, fun hdue => ⟨?_, ?_⟩⟩
  · rw [hleft]
    exact Option.filter_some_pos (decide_eq_true hbefore)
  · rw [hleft]
    exact Option.filter_some_neg (decide_eq_false hdue.not_gt)
  · exact (hevents _).mpr ⟨s.seqNext, _, hsent, hdue, rfl⟩

/-! ## A Save behind a SetMap -/

theorem byte_ne_add_one (k : Byte) : k ≠ k + 1 := by bv_omega

/-- A SetMap answer with the flag 0 sends nothing, whether it matches or not (43_frame_rx.md R214). -/
theorem setmap_sends_nothing (f : Frame) {s : State} (hflag : s.saveAfterWrite = false) :
    ∃ u, exec (.setmap f) s = .next u ∧ countTx u.events = 0 := by
  obtain ⟨hunmatched, hmatched⟩ := (chainableAnswersResolveAndChain f s).1 (.setmap f, s.saveAfterWrite) (.head _)
  cases hpend : s.pendAt f.seq with
  | none => exact ⟨_, hunmatched hpend, rfl⟩
  | some e => exact ⟨_, hmatched e hpend hflag, rfl⟩

/-- A SetMap answer with the flag 1 resolves its request, sends one Save and clears the flag. The Save has its own
number, so a duplicate of the answer is unmatched. -/
theorem setmap_sends_save_once (f : Frame) {s : State} {e : PendEntry} (hpend : s.pendAt f.seq = some e)
    (hflag : s.saveAfterWrite = true) (hseq : f.seq ≠ s.seqNext) : ∃ t u : State, exec (.setmap f) s = .next t ∧
      t.events = [.notify e.cmd f.seq .ok .none [], .tx (wireFrame 1 0x12 s.seqNext [])] ∧
      t.saveAfterWrite = false ∧ exec (.setmap f) t = .next u ∧ u.events = [] := by
  obtain ⟨hsave, -, -⟩ := (chainableAnswersResolveAndChain f s).2 e hpend
  obtain ⟨c, hexec⟩ := hsave hflag
  refine ⟨_, _, hexec, rfl, rfl, unmatchedAnswersHaveNoEffect f _ ?_ (.setmap f) (.tail _ (.head _)), rfl⟩
  exact (State.pendAt_setPend_other (s := s.setPend f.seq none) _ hseq).trans (s.pendAt_setPend_same f.seq none)

/-- Settles O38: behind the request its entry is pending and the flag is 1, so a success sends the one Save; an Error
clears the flag, and a SetMap answer with the flag 0 sends nothing. -/
theorem saveAfterWriteFiresExactlyOnce : Obligations.SaveAfterWriteFiresExactlyOnce := by
  intro s sent f g hwork hreq hseq
  have hsent : sent = _ := Host.Outcome.next.inj (hreq.symm.trans (exec_reqSetmap_of_valid s true hwork))
  have hnext : sent.seqNext = s.seqNext + 1 := by rw [hsent]; rfl
  have hflag : sent.saveAfterWrite = true := by rw [hsent]; rfl
  have hpend : sent.pendAt f.seq = some { cmd := Config.typeSetmap, deadline := s.now + Config.timeoutMs } := by
    rw [hsent, State.pendAt_requestFlag, hseq, State.requested_pendAt]
  refine ⟨?success, ?error⟩
  case success =>
    rw [← hnext]
    exact setmap_sends_save_once f hpend hflag (by rw [hnext, hseq]; exact byte_ne_add_one s.seqNext)
  case error =>
    obtain ⟨t, hexec, hevents, hsave, hload, hreset⟩ : ∃ t : State, exec (.error f) sent = .next t ∧
        t.events = [.notify 0x11 f.seq .deviceError .none f.payload] ∧ t.saveAfterWrite = false ∧
        t.fetchAfterLoad = false ∧ t.fetchAfterReset = false :=
      ⟨_, (errorFrameClearsFlagsAndFails f sent).2 _ hpend, rfl, rfl, rfl, rfl⟩
    obtain ⟨u, hlater, hnone⟩ := setmap_sends_nothing g hsave
    exact ⟨t, u, hexec, hevents, hsave, hload, hreset, hlater, hnone⟩

end Sys2Proof.Machine

namespace Sys2Proof.Machine

/-! ## The operations of the config unit -/

section
variable (s : State)

theorem exec_actEq (a b : Action) :
    exec (.actEq a b) s = .next (s.start.finish (.bit (actEq s.params.kindMacro a b))) := rfl

theorem exec_cfgEnc : exec .cfgEnc s = .next (s.start.finish (.bytes (cfgEnc s.params.kindMacro s.work s.defMap))) := rfl

theorem exec_cfgDec_ok {p : Bytes} {m : Keymap} (h : cfgDec s.params.kindMacro p s.defMap = .ok m) :
    exec (.cfgDec p) s = .next (s.start.finish (.keymap m)) := by
  rw [exec, execCfgDec, h]

theorem exec_cfgDec_err {p : Bytes} {cls : Status} {sub : Sub}
    (h : cfgDec s.params.kindMacro p s.defMap = .err cls sub) :
    exec (.cfgDec p) s = .next (s.start.finish (.error cls sub)) := by
  rw [exec, execCfgDec, h]

end

/-! ## ACT.EQ -/

theorem stepEq_iff (x y : MacroStep) : stepEq x y = true ↔ x = y := by
  cases x
  cases y
  simp [stepEq, and_assoc]

theorem stepsEq_iff : ∀ xs ys : List MacroStep, stepsEq xs ys = true ↔ xs = ys
  | [], [] => by simp [stepsEq]
  | [], _ :: _ => by simp [stepsEq]
  | _ :: _, [] => by simp [stepsEq]
  | x :: xs, y :: ys => by simp [stepsEq, stepEq_iff, stepsEq_iff xs ys]

/-- The steps count only where the common kind is Macro (45_config_codec.md R281, R282). -/
theorem actEq_iff (kindMacro : Byte) (a b : Action) : actEq kindMacro a b = true ↔
    a.kind = b.kind ∧ a.mask = b.mask ∧ a.keys = b.keys ∧ (a.kind = kindMacro → a.steps = b.steps) := by
  simp only [actEq, Bool.and_eq_true, beq_iff_eq, decide_eq_true_eq, and_assoc]
  by_cases hkind : a.kind = kindMacro
  · simp [hkind, stepsEq_iff]
  · simp [hkind]

theorem actEq_refl (kindMacro : Byte) (a : Action) : actEq kindMacro a a = true :=
  (actEq_iff kindMacro a a).mpr ⟨rfl, rfl, rfl, fun _ => rfl⟩

theorem actEq_symm {kindMacro : Byte} {a b : Action} (h : actEq kindMacro a b = true) : actEq kindMacro b a = true := by
  obtain ⟨hkind, hmask, hkeys, hsteps⟩ := (actEq_iff kindMacro a b).mp h
  exact (actEq_iff kindMacro b a).mpr
    ⟨hkind.symm, hmask.symm, hkeys.symm, fun hmacro => (hsteps (hkind.trans hmacro)).symm⟩

/-- Settles O39: `actEq_iff` at the state's code of Macro. -/
theorem actEqComparesWhatTheRuleNames : Obligations.ActEqComparesWhatTheRuleNames := fun a b s =>
  ⟨_, exec_actEq s a b, actEq_iff s.params.kindMacro a b⟩

/-! ## Cells by layer, row and column -/

theorem cellIndex_of_lt {l r c : Nat} (hl : l < 2) (hr : r < 5) (hc : c < 5) :
    cellIndex l r c = some ⟨l * 25 + r * 5 + c, by omega⟩ :=
  dif_pos ⟨hl, hr, hc⟩

theorem cellIndex_of_outside {l r c : Nat} (h : 2 ≤ l ∨ 5 ≤ r ∨ 5 ≤ c) : cellIndex l r c = none :=
  dif_neg (show ¬ (l < 2 ∧ r < 5 ∧ c < 5) by omega)

/-- Layer, row and column of a flat index name its cell (20_memory.md R62). -/
theorem cellIndex_coords (i : Fin 50) : cellIndex (layerOf i) (rowOf i) (colOf i) = some i := by
  have hi := i.isLt
  rw [cellIndex_of_lt (by simp only [layerOf]; omega) (by simp only [rowOf]; omega) (by simp only [colOf]; omega)]
  congr 1
  ext
  simp only [layerOf, rowOf, colOf]
  omega

theorem cellAt_coords (m : Keymap) (i : Fin 50) : cellAt m (layerOf i) (rowOf i) (colOf i) = m[i] := by
  rw [cellAt, cellIndex_coords]

theorem isFnPosition_iff (r c : Nat) : isFnPosition r c = true ↔ r = 4 ∧ c = 2 := by
  simp [isFnPosition, Config.fnRow, Config.fnCol]

/-! ## The edit port -/

/-- Settles O46: an index in range names its cell, and no other index names one. -/
theorem cfgRdReturnsTheCell : Obligations.CfgRdReturnsTheCell := by
  intro l r c s
  refine ⟨fun hl hr hc => ?inside, fun hout => ?outside⟩
  case inside =>
    rw [exec, execCfgRd, cellIndex_of_lt hl hr hc]
    rfl
  case outside =>
    rw [exec, execCfgRd, cellIndex_of_outside hout]
    rfl

section
variable {l r c : Nat} (a : Action) (s : State)

theorem exec_cfgWr_outside (h : 2 ≤ l ∨ 5 ≤ r ∨ 5 ≤ c) : exec (.cfgWr l r c a) s = .next (s.refuse .badIndex) := by
  rw [exec, execCfgWr, cellIndex_of_outside h]

/-- CFG.WR of a cell: the refusals for the Fn key and for the macro, in this order, or the write. -/
theorem exec_cfgWr_inside (hl : l < 2) (hr : r < 5) (hc : c < 5) : exec (.cfgWr l r c a) s = .next
    (if r = 4 ∧ c = 2 then s.refuse .fnKeyReserved
     else if 16 < a.steps.length then s.refuse .macroTooLong
     else { s.start with work := s.work.set (l * 25 + r * 5 + c) a (by omega) }) := by
  rw [exec, execCfgWr, cellIndex_of_lt hl hr hc]
  exact congrArg Host.Outcome.next (if_congr (isFnPosition_iff r c) rfl rfl)

end

/-- Settles O47: the index first, then the two refusals of `exec_cfgWr_inside` in their order. -/
theorem cfgWrStoresOneCellOrRefuses : Obligations.CfgWrStoresOneCellOrRefuses := by
  intro l r c a s
  refine ⟨exec_cfgWr_outside a s, ?fnKey, ?longMacro, ?stored⟩
  case fnKey =>
    rintro hl rfl rfl
    rw [exec_cfgWr_inside a s hl (by decide) (by decide), if_pos ⟨rfl, rfl⟩]
    rfl
  case longMacro =>
    intro hl hr hc hfn hlong
    rw [exec_cfgWr_inside a s hl hr hc, if_neg hfn, if_pos hlong]
    rfl
  case stored =>
    intro hl hr hc hfn hfits
    rw [exec_cfgWr_inside a s hl hr hc, if_neg hfn, if_neg hfits.not_gt]
    rfl

end Sys2Proof.Machine

namespace Sys2Proof.Machine

/-! ## The checks of CFG.DEC before the entries

CFG.DEC in equations, one for each check that can fail (45_config_codec.md R295 to R298), and the conjunction of the
checks. -/

/-- The four constants in front are the ones of 30_encoding.md R116. -/
def CfgHeaderMatches (p : Bytes) : Prop :=
  byteAt p 0 = 3 ∧ byteAt p 1 = 5 ∧ byteAt p 2 = 5 ∧ byteAt p 3 = 2

/-- The last two bytes are the CRC of what precedes them (30_encoding.md R120). -/
def CfgCrcMatches (p : Bytes) : Prop :=
  le16 (byteAt p (p.length - 2)) (byteAt p (p.length - 1)) = crc16 (slice p 0 (p.length - 2))

/-- The three checks before the entries pass. -/
structure CfgChecksPass (p : Bytes) : Prop where
  long : 9 ≤ p.length
  header : CfgHeaderMatches p
  crc : CfgCrcMatches p

section
variable {kindMacro : Byte} {p : Bytes} {d : Keymap}

theorem cfgHeader_fails_iff : (byteAt p 0 ≠ Config.cfgVer ∨ byteAt p 1 ≠ BitVec.ofNat 8 Config.rows ∨
    byteAt p 2 ≠ BitVec.ofNat 8 Config.cols ∨ byteAt p 3 ≠ BitVec.ofNat 8 Config.layers) ↔ ¬ CfgHeaderMatches p := by
  simp only [CfgHeaderMatches, not_and_or]
  rfl

theorem cfgDec_of_short (h : p.length < 9) : cfgDec kindMacro p d = .err .formatError .truncated := if_pos h

theorem cfgDec_of_badHeader (hlong : 9 ≤ p.length) (h : ¬ CfgHeaderMatches p) :
    cfgDec kindMacro p d = .err .formatError .badHeader :=
  (if_neg hlong.not_gt).trans (if_pos (cfgHeader_fails_iff.mpr h))

theorem cfgDec_of_badCrc (hlong : 9 ≤ p.length) (hheader : CfgHeaderMatches p) (h : ¬ CfgCrcMatches p) :
    cfgDec kindMacro p d = .err .integrityError .badCrc :=
  (if_neg hlong.not_gt).trans ((if_neg (mt cfgHeader_fails_iff.mp (not_not.mpr hheader))).trans (if_pos h))

theorem cfgDec_of_entries_err (hp : CfgChecksPass p) {cls : Status} {sub : Sub}
    (h : cfgEntries kindMacro p (p.length - 2) (le16 (byteAt p 5) (byteAt p 6)).toNat 7 d = .err cls sub) :
    cfgDec kindMacro p d = .err cls sub :=
  (if_neg hp.long.not_gt).trans ((if_neg (mt cfgHeader_fails_iff.mp (not_not.mpr hp.header))).trans
    ((if_neg (not_not.mpr hp.crc)).trans (by rw [show Config.cfgHdrLen = 7 from rfl, h])))

theorem cfgDec_of_entries_ok (hp : CfgChecksPass p) {m : Keymap} {pos : Nat}
    (h : cfgEntries kindMacro p (p.length - 2) (le16 (byteAt p 5) (byteAt p 6)).toNat 7 d = .ok (m, pos)) :
    cfgDec kindMacro p d = if pos ≠ p.length - 2 then .err .formatError .trailing else .ok m :=
  (if_neg hp.long.not_gt).trans ((if_neg (mt cfgHeader_fails_iff.mp (not_not.mpr hp.header))).trans
    ((if_neg (not_not.mpr hp.crc)).trans (by rw [show Config.cfgHdrLen = 7 from rfl, h])))

end

theorem cfgHeaderMatches_layout_iff (p0 p1 p2 p3 : Byte) (rest : Bytes) :
    CfgHeaderMatches ([p0, p1, p2, p3] ++ rest) ↔ [p0, p1, p2, p3] = [3, 5, 5, 2] := by
  simp [CfgHeaderMatches, byteAt]

theorem cfgCrcMatches_layout_iff (x : Bytes) (clo chi : Byte) :
    CfgCrcMatches (x ++ [clo, chi]) ↔ chi ++ clo = crc16 x := by
  have hslice : slice (x ++ [clo, chi]) 0 x.length = x := by simp [slice]
  have hlast := byteAt_append_right x [clo, chi]
  have hlen : (x ++ [clo, chi]).length = x.length + 2 := by simp
  rw [CfgCrcMatches, hlen, Nat.add_sub_cancel, hslice, ← le16_eq_append]
  exact Eq.congr_left (congrArg₂ le16 (hlast 0) (hlast 1))

/-- Settles O43: each check, read off the layout, decides by its own equation. -/
theorem cfgDecChecksBeforeEntries : Obligations.CfgDecChecksBeforeEntries := by
  intro p s
  refine ⟨fun h => exec_cfgDec_err s (cfgDec_of_short h), ?_⟩
  rintro p0 p1 p2 p3 rest rfl hrest
  have hlong : 9 ≤ ([p0, p1, p2, p3] ++ rest).length := by simpa using hrest
  have hheader := cfgHeaderMatches_layout_iff p0 p1 p2 p3 rest
  refine ⟨fun hne => exec_cfgDec_err s (cfgDec_of_badHeader hlong (mt hheader.mp hne)), ?_⟩
  rintro body clo chi rfl heq hcrc
  refine exec_cfgDec_err s (cfgDec_of_badCrc hlong (hheader.mpr heq) (mt ?_ hcrc))
  rw [← List.append_assoc]
  exact (cfgCrcMatches_layout_iff _ clo chi).mp

/-! ## A payload with a right header and CRC -/

section
variable (mode : Byte) (count : Nat) (body : Bytes)

/-- What stands before the entries of a config payload (30_encoding.md R116). -/
def cfgHeader : Bytes := [3, 5, 5, 2, mode, BitVec.ofNat 8 (count % 256), BitVec.ofNat 8 (count / 256)]

theorem cfgPayload_eq : cfgPayload mode count body =
    (cfgHeader mode count ++ body) ++ leBytes (crc16 (cfgHeader mode count ++ body)) := rfl

theorem cfgPayload_length : (cfgPayload mode count body).length = 7 + body.length + 2 := by
  simp [cfgPayload_eq, cfgHeader]
  omega

theorem cfgPayload_checksPass : CfgChecksPass (cfgPayload mode count body) where
  long := by rw [cfgPayload_length]; omega
  header := (cfgHeaderMatches_layout_iff 3 5 5 2 _).mpr rfl
  crc := (cfgCrcMatches_layout_iff _ _ _).mpr ((le16_eq_append _ _).symm.trans (le16_lo8_hi8 _))

variable {count}

theorem cfgPayload_count (h : count ≤ 65535) :
    (le16 (byteAt (cfgPayload mode count body) 5) (byteAt (cfgPayload mode count body) 6)).toNat = count := by
  have hbytes : le16 (byteAt (cfgPayload mode count body) 5) (byteAt (cfgPayload mode count body) 6) =
    le16 (BitVec.ofNat 8 (count % 256)) (BitVec.ofNat 8 (count / 256)) := rfl
  rw [hbytes, le16_toNat, BitVec.toNat_ofNat, BitVec.toNat_ofNat]
  omega

variable {mode body} {kindMacro : Byte} {d : Keymap}

theorem cfgDec_cfgPayload_err (hcount : count ≤ 65535) {cls : Status} {sub : Sub}
    (h : cfgEntries kindMacro (cfgPayload mode count body) (7 + body.length) count 7 d = .err cls sub) :
    cfgDec kindMacro (cfgPayload mode count body) d = .err cls sub := by
  refine cfgDec_of_entries_err (cfgPayload_checksPass mode count body) ?_
  rwa [cfgPayload_length, cfgPayload_count mode body hcount]

theorem cfgDec_cfgPayload_ok (hcount : count ≤ 65535) {m : Keymap} {pos : Nat}
    (h : cfgEntries kindMacro (cfgPayload mode count body) (7 + body.length) count 7 d = .ok (m, pos)) :
    cfgDec kindMacro (cfgPayload mode count body) d =
      if pos ≠ 7 + body.length then .err .formatError .trailing else .ok m := by
  have hentries := cfgDec_of_entries_ok (kindMacro := kindMacro) (d := d) (m := m) (pos := pos)
    (cfgPayload_checksPass mode count body) (by rwa [cfgPayload_length, cfgPayload_count mode body hcount])
  rwa [cfgPayload_length, Nat.add_sub_cancel] at hentries

end

end Sys2Proof.Machine

namespace Sys2Proof.Machine

/-! ## One entry

What CFG.DEC does with the entry at a position, by the values its fixed bytes hold there (30_encoding.md R118), and which
values those are where the payload is laid out as an entry. -/

/-- The 12 fixed bytes of an entry (30_encoding.md R118). -/
def entryFixed (l r c kind mask : Byte) (keys : Vector Byte 6) (mlen : Byte) : Bytes :=
  [l, r, c, kind, mask] ++ keys.toList ++ [mlen]

/-- The 12 fixed bytes of the entry at `pos` hold these values. -/
structure EntryFields (p : Bytes) (pos : Nat) (l r c kind mask : Byte) (keys : Vector Byte 6) (mlen : Byte) : Prop where
  layer : byteAt p pos = l
  row : byteAt p (pos + 1) = r
  col : byteAt p (pos + 2) = c
  kind : byteAt p (pos + 3) = kind
  mask : byteAt p (pos + 4) = mask
  keys : keysAt p (pos + 5) = keys
  mlen : byteAt p (pos + 11) = mlen

section
variable {kindMacro : Byte} {p : Bytes} {pos stop : Nat} {m : Keymap}
  {l r c kind mask : Byte} {keys : Vector Byte 6} {mlen : Byte} {i : Fin 50}

theorem cfgEntry_of_short (h : stop < pos + 12) :
    cfgEntry kindMacro p pos stop m = .err .formatError .truncated := if_pos h

/-! An entry with its 12 fixed bytes: the checks in the order of 45_config_codec.md R299. -/

variable (hroom : pos + 12 ≤ stop) (hp : EntryFields p pos l r c kind mask keys mlen)
include hroom hp

theorem cfgEntry_of_outside (hcell : cellIndex l.toNat r.toNat c.toNat = none) :
    cfgEntry kindMacro p pos stop m = .err .formatError .badIndex := by
  obtain ⟨rfl, rfl, rfl, -, -, -, -⟩ := hp
  simp only [cfgEntry, Config.entryFixedLen, if_neg hroom.not_gt, hcell]

theorem cfgEntry_of_macro (hcell : cellIndex l.toNat r.toNat c.toNat = some i) (hkind : kind = kindMacro) :
    cfgEntry kindMacro p pos stop m =
      if 16 < mlen.toNat then .err .formatError .macroTooLong
      else if stop < pos + 12 + 10 * mlen.toNat then .err .formatError .truncated
      else .ok (m.set i.val ⟨kind, mask, keys, stepsAt p (pos + 12) mlen.toNat⟩ i.isLt, pos + 12 + 10 * mlen.toNat) := by
  obtain ⟨rfl, rfl, rfl, rfl, rfl, rfl, rfl⟩ := hp
  simp only [cfgEntry, Config.entryFixedLen, if_neg hroom.not_gt, hcell, if_pos hkind]
  rfl

theorem cfgEntry_of_otherKind (hcell : cellIndex l.toNat r.toNat c.toNat = some i) (hkind : kind ≠ kindMacro) :
    cfgEntry kindMacro p pos stop m =
      if mlen.toNat ≠ 0 then .err .formatError .nonMacroLen
      else .ok (m.set i.val ⟨kind, mask, keys, []⟩ i.isLt, pos + 12) := by
  obtain ⟨rfl, rfl, rfl, rfl, rfl, rfl, rfl⟩ := hp
  simp only [cfgEntry, Config.entryFixedLen, if_neg hroom.not_gt, hcell, if_neg hkind]

end

theorem keysAt_append_right (x y : Bytes) (i : Nat) : keysAt (x ++ y) (x.length + i) = keysAt y i := by
  simp only [keysAt, Nat.add_assoc, byteAt_append_right]

/-- Six key bytes read from where they were written. -/
theorem keysAt_toList (keys : Vector Byte 6) (y : Bytes) : keysAt (keys.toList ++ y) 0 = keys := by
  obtain ⟨⟨ks⟩, hks⟩ := keys
  match ks, hks with
  | [k0, k1, k2, k3, k4, k5], _ => rfl

theorem byteAt_behind_keys (keys : Vector Byte 6) (y : Bytes) (i : Nat) :
    byteAt (keys.toList ++ y) (6 + i) = byteAt y i := by
  have h := byteAt_append_right keys.toList y i
  rwa [Vector.length_toList] at h

theorem entryFixed_length (l r c kind mask : Byte) (keys : Vector Byte 6) (mlen : Byte) :
    (entryFixed l r c kind mask keys mlen).length = 12 := by
  simp [entryFixed]

/-- The fixed bytes, laid out at a position, hold the values they were built of. -/
theorem entryFields_layout (pre : Bytes) (l r c kind mask : Byte) (keys : Vector Byte 6) (mlen : Byte) (tail : Bytes) :
    EntryFields (pre ++ (entryFixed l r c kind mask keys mlen ++ tail)) pre.length l r c kind mask keys mlen := by
  have hbyte := byteAt_append_right pre (entryFixed l r c kind mask keys mlen ++ tail)
  have hassoc : entryFixed l r c kind mask keys mlen ++ tail =
      [l, r, c, kind, mask] ++ (keys.toList ++ ([mlen] ++ tail)) := by
    simp [entryFixed]
  refine ⟨hbyte 0, hbyte 1, hbyte 2, hbyte 3, hbyte 4, ?keys, (hbyte 11).trans ?mlen⟩
  case keys =>
    rw [keysAt_append_right, hassoc]
    exact (keysAt_append_right [l, r, c, kind, mask] _ 0).trans (keysAt_toList keys _)
  case mlen =>
    rw [hassoc]
    exact (byteAt_append_right [l, r, c, kind, mask] _ 6).trans (byteAt_behind_keys keys _ 0)

/-- The steps of a macro read from where they were written. -/
theorem stepsAt_flatMap_stepBytes (post : Bytes) : ∀ (xs : List MacroStep) (pre : Bytes),
    stepsAt (pre ++ (xs.flatMap stepBytes ++ post)) pre.length xs.length = xs
  | [], _ => rfl
  | x :: xs, pre => by
    have hstep := stepAt_append_right pre (stepBytes x ++ (xs.flatMap stepBytes ++ post)) 0
    have hrest := stepsAt_flatMap_stepBytes post xs (pre ++ stepBytes x)
    rw [List.length_append, stepBytes_length, List.append_assoc] at hrest
    rw [List.flatMap_cons, List.append_assoc, List.length_cons, stepsAt, List.cons.injEq]
    exact ⟨hstep.trans (stepAt_stepBytes x _), hrest⟩

/-! ## The entries the decoder accepts -/

/-- An entry's bytes are its 12 fixed bytes and its steps (30_encoding.md R118, R119). -/
theorem entryWire_eq (i : Fin 50) (a : Action) : entryWire (i, a) =
    entryFixed (BitVec.ofNat 8 (layerOf i)) (BitVec.ofNat 8 (rowOf i)) (BitVec.ofNat 8 (colOf i)) a.kind a.mask a.keys
      (BitVec.ofNat 8 a.steps.length) ++ a.steps.flatMap stepBytes := rfl

theorem entryWire_length (e : Fin 50 × Action) : (entryWire e).length = 12 + 10 * e.2.steps.length := by
  obtain ⟨i, a⟩ := e
  rw [entryWire_eq, List.length_append, entryFixed_length, flatMap_stepBytes_length, Nat.mul_comm]
  rfl

theorem entryFields_entryWire (pre post : Bytes) (i : Fin 50) (a : Action) :
    EntryFields (pre ++ (entryWire (i, a) ++ post)) pre.length (BitVec.ofNat 8 (layerOf i)) (BitVec.ofNat 8 (rowOf i))
      (BitVec.ofNat 8 (colOf i)) a.kind a.mask a.keys (BitVec.ofNat 8 a.steps.length) := by
  rw [entryWire_eq, List.append_assoc]
  exact entryFields_layout ..

theorem stepsAt_entryWire (pre post : Bytes) (i : Fin 50) (a : Action) :
    stepsAt (pre ++ (entryWire (i, a) ++ post)) (pre.length + 12) a.steps.length = a.steps := by
  rw [entryWire_eq, List.append_assoc, ← List.append_assoc pre, ← entryFixed_length, ← List.length_append]
  exact stepsAt_flatMap_stepBytes ..

/-- The coordinates of a cell fit their bytes. -/
theorem cellIndex_coordBytes (i : Fin 50) : cellIndex (BitVec.ofNat 8 (layerOf i)).toNat (BitVec.ofNat 8 (rowOf i)).toNat
    (BitVec.ofNat 8 (colOf i)).toNat = some i := by
  have hi := i.isLt
  simp only [BitVec.toNat_ofNat]
  rw [Nat.mod_eq_of_lt (by simp only [layerOf]; omega), Nat.mod_eq_of_lt (by simp only [rowOf]; omega),
    Nat.mod_eq_of_lt (by simp only [colOf]; omega), cellIndex_coords]

/-- A legal entry is applied, the Fn-key cell's too (45_config_codec.md R299, R304). -/
theorem cfgEntry_entryWire {kindMacro : Byte} {e : Fin 50 × Action} (he : entryLegal kindMacro e) (pre post : Bytes)
    {stop : Nat} (hstop : pre.length + (entryWire e).length ≤ stop) (m : Keymap) :
    cfgEntry kindMacro (pre ++ (entryWire e ++ post)) pre.length stop m =
      .ok (m.set e.1.val e.2 e.1.isLt, pre.length + (entryWire e).length) := by
  obtain ⟨i, a⟩ := e
  obtain ⟨hlen, hplain⟩ : a.steps.length ≤ 16 ∧ (a.kind ≠ kindMacro → a.steps = []) := he
  have hroom : pre.length + (12 + 10 * a.steps.length) ≤ stop := by rwa [entryWire_length] at hstop
  have hmlen : (BitVec.ofNat 8 a.steps.length).toNat = a.steps.length := by
    rw [BitVec.toNat_ofNat]
    omega
  have hfields := entryFields_entryWire pre post i a
  have hcell := cellIndex_coordBytes i
  have hfixed : pre.length + 12 ≤ stop := by omega
  rw [entryWire_length]
  by_cases hkind : a.kind = kindMacro
  · rw [cfgEntry_of_macro hfixed hfields hcell hkind, hmlen, if_neg hlen.not_gt, if_neg (by omega), stepsAt_entryWire,
      Nat.add_assoc]
  · obtain ⟨kind, mask, keys, steps⟩ := a
    obtain rfl : steps = [] := hplain hkind
    exact cfgEntry_of_otherKind hfixed hfields hcell hkind

/-- The entries of a list, applied one after another (45_config_codec.md R304). -/
def applyEntries (m : Keymap) (es : List (Fin 50 × Action)) : Keymap :=
  es.foldl (fun m p => m.set p.1.val p.2 p.1.isLt) m

/-- Behind the legal entries in front the decoder goes on with what is left of the count. -/
theorem cfgEntries_entryWire {kindMacro : Byte} {stop : Nat} (k : Nat) (post : Bytes) :
    ∀ (es : List (Fin 50 × Action)), (∀ e ∈ es, entryLegal kindMacro e) → ∀ (pre : Bytes) (m : Keymap),
      pre.length + (es.flatMap entryWire).length ≤ stop →
      cfgEntries kindMacro (pre ++ (es.flatMap entryWire ++ post)) stop (es.length + k) pre.length m =
        cfgEntries kindMacro (pre ++ (es.flatMap entryWire ++ post)) stop k
          (pre.length + (es.flatMap entryWire).length) (applyEntries m es)
  | [], _, pre, m, _ => by simp [applyEntries]
  | e :: es, hes, pre, m, hstop => by
    obtain ⟨he, hes⟩ := List.forall_mem_cons.mp hes
    rw [List.flatMap_cons, List.length_append] at hstop
    have hentry := cfgEntry_entryWire he pre (es.flatMap entryWire ++ post) (stop := stop) (by omega) m
    have hrest := cfgEntries_entryWire (stop := stop) k post es hes (pre ++ entryWire e) (m.set e.1.val e.2 e.1.isLt)
      (by rw [List.length_append]; omega)
    rw [List.append_assoc, List.length_append] at hrest
    rw [List.flatMap_cons, List.append_assoc, List.length_cons, Nat.add_right_comm, cfgEntries, hentry,
      List.length_append, ← Nat.add_assoc]
    exact hrest

end Sys2Proof.Machine

namespace Sys2Proof.Machine

/-! ## Decoding a payload with legal entries in front -/

theorem cfgHeader_length (mode : Byte) (count : Nat) : (cfgHeader mode count).length = 7 := rfl

theorem cfgPayload_append (mode : Byte) (count : Nat) (x y : Bytes) : cfgPayload mode count (x ++ y) =
    cfgHeader mode count ++ (x ++ (y ++ leBytes (crc16 (cfgHeader mode count ++ (x ++ y))))) := by
  simp only [cfgPayload_eq, List.append_assoc]

section
variable {kindMacro : Byte} {es : List (Fin 50 × Action)} (hes : ∀ e ∈ es, entryLegal kindMacro e)
  (mode : Byte) (rest : Bytes) (d : Keymap)
include hes

/-- The entries in front are read, whatever the count says follows them. -/
theorem cfgEntries_cfgPayload (count k : Nat) :
    cfgEntries kindMacro (cfgPayload mode count (es.flatMap entryWire ++ rest))
        (7 + (es.flatMap entryWire ++ rest).length) (es.length + k) 7 d =
      cfgEntries kindMacro (cfgPayload mode count (es.flatMap entryWire ++ rest))
        (7 + (es.flatMap entryWire ++ rest).length) k (7 + (es.flatMap entryWire).length) (applyEntries d es) := by
  rw [cfgPayload_append]
  refine cfgEntries_entryWire k _ es hes (cfgHeader mode count) d ?_
  rw [cfgHeader_length, List.length_append]
  omega

/-- Where the count is the number of the entries, what follows them decides (45_config_codec.md R305). -/
theorem cfgDec_of_legal (hcount : es.length ≤ 65535) :
    cfgDec kindMacro (cfgPayload mode es.length (es.flatMap entryWire ++ rest)) d =
      if rest ≠ [] then .err .formatError .trailing else .ok (applyEntries d es) := by
  rw [cfgDec_cfgPayload_ok hcount (cfgEntries_cfgPayload hes mode rest d es.length 0)]
  have hpos : 7 + (es.flatMap entryWire).length ≠ 7 + (es.flatMap entryWire ++ rest).length ↔ rest ≠ [] := by
    rw [List.length_append, ne_eq, ne_eq, ← List.length_eq_zero_iff]
    omega
  exact if_congr hpos rfl rfl

/-- Where the count is above their number, a failure of the next entry is the answer. -/
theorem cfgDec_of_next_entry_err {count : Nat} (hmore : es.length < count) (hcount : count ≤ 65535)
    {cls : Status} {sub : Sub}
    (h : cfgEntry kindMacro (cfgPayload mode count (es.flatMap entryWire ++ rest)) (7 + (es.flatMap entryWire).length)
      (7 + (es.flatMap entryWire ++ rest).length) (applyEntries d es) = .err cls sub) :
    cfgDec kindMacro (cfgPayload mode count (es.flatMap entryWire ++ rest)) d = .err cls sub := by
  obtain ⟨k, rfl⟩ := Nat.exists_eq_add_of_lt hmore
  refine cfgDec_cfgPayload_err hcount ?_
  rw [Nat.add_assoc, cfgEntries_cfgPayload hes, cfgEntries, ← Nat.add_assoc, h]

end

/-- Settles O44: nothing stands behind the entries. -/
theorem cfgDecAppliesEntriesInOrder : Obligations.CfgDecAppliesEntriesInOrder := by
  intro es mode s hcount hes
  have h := cfgDec_of_legal hes mode [] s.defMap hcount
  rw [List.append_nil] at h
  exact exec_cfgDec_ok s h

/-- The fixed bytes of an entry behind others in a payload. -/
theorem entryFields_cfgPayload (mode : Byte) (count : Nat) (x : Bytes) (l r c kind mask : Byte) (keys : Vector Byte 6)
    (mlen : Byte) (tail : Bytes) :
    EntryFields (cfgPayload mode count (x ++ (entryFixed l r c kind mask keys mlen ++ tail))) (7 + x.length)
      l r c kind mask keys mlen := by
  have h := entryFields_layout (cfgHeader mode count ++ x) l r c kind mask keys mlen
  rw [List.length_append, cfgHeader_length] at h
  rw [cfgPayload_append, ← List.append_assoc, List.append_assoc (entryFixed ..)]
  exact h _

/-- Settles O45: the failure is that of the next entry, by the values its fixed bytes hold. -/
theorem cfgDecEntryFailures : Obligations.CfgDecEntryFailures := by
  intro es mode s hlen hes
  refine ⟨fun rest hrest => ?trailing, fun count hmore hcount => ?_⟩
  case trailing => exact exec_cfgDec_err s ((cfgDec_of_legal hes mode rest s.defMap hlen).trans (if_pos hrest))
  have hnext {rest : Bytes} {sub : Sub} := fun h => exec_cfgDec_err s
    (cfgDec_of_next_entry_err hes mode rest s.defMap hmore hcount (cls := .formatError) (sub := sub) h)
  refine ⟨fun rest hshort => hnext (cfgEntry_of_short ?_), fun l r c kind mask mlen keys tail => ?entry⟩
  · rw [List.length_append]
    omega
  case entry =>
    have hfields := entryFields_cfgPayload mode count (es.flatMap entryWire) l r c kind mask keys mlen tail
    have hstop : (es.flatMap entryWire ++ (entryFixed l r c kind mask keys mlen ++ tail)).length =
        (es.flatMap entryWire).length + (12 + tail.length) := by
      rw [List.length_append, List.length_append, entryFixed_length]
    have hroom : 7 + (es.flatMap entryWire).length + 12 ≤
        7 + (es.flatMap entryWire ++ (entryFixed l r c kind mask keys mlen ++ tail)).length := by omega
    refine ⟨fun hout => hnext (cfgEntry_of_outside hroom hfields (cellIndex_of_outside hout)), fun hl hr hc => ?_⟩
    have hcell := cellIndex_of_lt hl hr hc
    refine ⟨fun hkind hlong => hnext ?tooLong, fun hkind hfits hcut => hnext ?cut, fun hkind hmlen => hnext ?nonMacro⟩
    case tooLong => exact (cfgEntry_of_macro hroom hfields hcell hkind).trans (if_pos hlong)
    case cut =>
      exact (cfgEntry_of_macro hroom hfields hcell hkind).trans ((if_neg hfits.not_gt).trans (if_pos (by omega)))
    case nonMacro =>
      exact (cfgEntry_of_otherKind hroom hfields hcell hkind).trans (if_pos fun h => hmlen (BitVec.eq_of_toNat_eq h))

/-! ## The encoding as a payload of entries -/

/-- The part of an action that its entry carries: the steps only where the kind is Macro (45_config_codec.md R292). -/
def encodedPart (kindMacro : Byte) (a : Action) : Action :=
  { a with steps := if a.kind = kindMacro then a.steps else [] }

section
variable (kindMacro : Byte)

theorem actEq_encodedPart (a : Action) : actEq kindMacro (encodedPart kindMacro a) a = true :=
  (actEq_iff kindMacro _ a).mpr ⟨rfl, rfl, rfl, fun hmacro => if_pos hmacro⟩

theorem entryLegal_encodedPart (i : Fin 50) {a : Action} (ha : a.steps.length ≤ Config.macroMax) :
    entryLegal kindMacro (i, encodedPart kindMacro a) := by
  refine ⟨?_, fun hother => if_neg hother⟩
  rw [encodedPart]
  split_ifs
  · exact ha
  · exact Nat.zero_le 16

theorem entryBytes_eq_entryWire (i : Fin 50) (a : Action) :
    entryBytes kindMacro i a = entryWire (i, encodedPart kindMacro a) := rfl

variable (m d : Keymap)

/-- The entries of an encoding, in scan order. -/
def diffEntries : List (Fin 50 × Action) :=
  (diffCells kindMacro m d).map fun i => (i, encodedPart kindMacro m[i])

theorem flatMap_entryBytes_eq : ((diffCells kindMacro m d).flatMap fun i => entryBytes kindMacro i m[i]) =
    (diffEntries kindMacro m d).flatMap entryWire := by
  simp only [diffEntries, List.flatMap_map, entryBytes_eq_entryWire]

theorem diffEntries_length_le : (diffEntries kindMacro m d).length ≤ 50 := by
  rw [diffEntries, List.length_map]
  exact diffCells_length_le kindMacro m d

theorem leBytes_ofNat_eq (n : Nat) :
    leBytes (BitVec.ofNat 16 n) = [BitVec.ofNat 8 (n % 256), BitVec.ofNat 8 (n / 256)] := by
  have hlow : BitVec.ofNat 8 n = BitVec.ofNat 8 (n % 256) := BitVec.eq_of_toNat_eq (by simp)
  rw [leBytes_ofNat, hlow]

/-- CFG.ENC writes a payload with mode 0 (45_config_codec.md R290). -/
theorem cfgEnc_eq_cfgPayload : cfgEnc kindMacro m d =
    cfgPayload 0 (diffCells kindMacro m d).length
      ((diffCells kindMacro m d).flatMap fun i => entryBytes kindMacro i m[i]) := by
  rw [cfgEnc, leBytes_ofNat_eq]
  rfl

variable {m}

theorem diffEntries_legal (hm : keymapValid m) : ∀ e ∈ diffEntries kindMacro m d, entryLegal kindMacro e :=
  List.forall_mem_map.mpr fun i _ => entryLegal_encodedPart kindMacro i (hm i)

/-- Decoding an encoding applies its entries to the default. -/
theorem cfgDec_cfgEnc (hm : keymapValid m) :
    cfgDec kindMacro (cfgEnc kindMacro m d) d = .ok (applyEntries d (diffEntries kindMacro m d)) := by
  have hcount := diffEntries_length_le kindMacro m d
  have h := cfgDec_of_legal (diffEntries_legal kindMacro d hm) 0 [] d (by omega)
  rwa [List.append_nil, ← flatMap_entryBytes_eq, diffEntries, List.length_map, ← cfgEnc_eq_cfgPayload] at h

end

/-! ## Decode of encode -/

/-- Entries with one action for each cell: a cell they name holds its action, every other cell is as before. -/
theorem applyEntries_getElem (f : Fin 50 → Action) (i : Fin 50) : ∀ (cells : List (Fin 50)) (m : Keymap),
    (applyEntries m (cells.map fun j => (j, f j)))[i] = if i ∈ cells then f i else m[i]
  | [], m => rfl
  | j :: cells, m => by
    have hrest := applyEntries_getElem f i cells (m.set j.val (f j) j.isLt)
    refine hrest.trans ?_
    by_cases hmem : i ∈ cells
    · simp [hmem]
    · by_cases hij : i = j
      · simp [hij]
      · have hval : j.val ≠ i.val := fun h => hij (Fin.ext h.symm)
        simp [hmem, hij, Vector.getElem_set_ne, hval]

theorem mem_diffCells_iff (kindMacro : Byte) (m d : Keymap) (i : Fin 50) :
    i ∈ diffCells kindMacro m d ↔ isFnCell i = false ∧ actEq kindMacro m[i] d[i] = false := by
  simp [diffCells, allCells]

/-- The cells that an encoding leaves out are ACT.EQ to the default, where the Fn-key cells are. -/
theorem actEq_of_not_mem_diffCells {kindMacro : Byte} {m d : Keymap}
    (hfn : ∀ l < 2, actEq kindMacro (cellAt m l 4 2) (cellAt d l 4 2) = true) {i : Fin 50}
    (hi : i ∉ diffCells kindMacro m d) : actEq kindMacro m[i] d[i] = true := by
  by_cases hcell : isFnCell i = true
  · obtain ⟨hrow, hcol⟩ := (isFnPosition_iff (rowOf i) (colOf i)).mp hcell
    have hlayer : layerOf i < 2 := by simp only [layerOf]; omega
    have h := hfn (layerOf i) hlayer
    rwa [← hrow, ← hcol, cellAt_coords, cellAt_coords] at h
  · simpa [mem_diffCells_iff, hcell] using hi

/-- Settles O42: a cell the encoding carries reads back as what its entry carries of it, and every other cell keeps the
default, to which it is ACT.EQ. -/
theorem configRoundTrip : Obligations.ConfigRoundTrip := by
  intro s hwork hfn
  refine ⟨_, _, exec_cfgEnc s, exec_cfgDec_ok s (cfgDec_cfgEnc s.params.kindMacro s.defMap hwork), fun i => ?_⟩
  have hget := applyEntries_getElem (fun j => encodedPart s.params.kindMacro s.work[j]) i
    (diffCells s.params.kindMacro s.work s.defMap) s.defMap
  rw [diffEntries, hget]
  split_ifs with hi
  · exact actEq_encodedPart s.params.kindMacro s.work[i]
  · exact actEq_symm (actEq_of_not_mem_diffCells hfn hi)

/-! ## What CFG.ENC writes -/

theorem diffCells_self (kindMacro : Byte) (d : Keymap) : diffCells kindMacro d d = [] := by
  simp [diffCells, actEq_refl]

/-- At most 50 entries of at most 172 bytes, below the bound of 30_encoding.md R115. -/
theorem cfgEnc_length_le (kindMacro : Byte) {m : Keymap} (hm : keymapValid m) (d : Keymap) :
    (cfgEnc kindMacro m d).length ≤ 9 + 50 * 172 := by
  have hsum := List.sum_le_card_nsmul ((diffCells kindMacro m d).map fun i => (entryBytes kindMacro i m[i]).length) 172
    (List.forall_mem_map.mpr fun i _ => entryBytes_length_le kindMacro i (hm i))
  rw [List.length_map, smul_eq_mul] at hsum
  rw [cfgEnc_length]
  exact Nat.add_le_add_left (hsum.trans (Nat.mul_le_mul_right 172 (diffCells_length_le kindMacro m d))) 9

/-- Settles O41: where the two maps are one, no cell is carried, and the nine bytes are computed. -/
theorem cfgEncEmptyDiffAndBound : Obligations.CfgEncEmptyDiffAndBound := by
  intro s hwork
  refine ⟨_, exec_cfgEnc s, ?atLeast, ?atMost, fun hsame => ?same⟩
  case atLeast =>
    rw [cfgEnc_length]
    exact Nat.le_add_right 9 _
  case atMost => exact (cfgEnc_length_le s.params.kindMacro hwork s.defMap).trans (by decide)
  case same =>
    have hempty : cfgPayload 0 0 [] = [0x03, 0x05, 0x05, 0x02, 0x00, 0x00, 0x00, 0x72, 0xA4] := by decide +kernel
    rw [hsame, cfgEnc_eq_cfgPayload, diffCells_self]
    exact hempty

/-- The coordinates of a flat index. -/
def coords (i : Fin 50) : Nat × Nat × Nat := (layerOf i, rowOf i, colOf i)

/-- Increasing flat index is the order of the three nested loops (20_memory.md R62). -/
theorem map_coords_allCells : allCells.map coords =
    (List.range 2).flatMap fun l => (List.range 5).flatMap fun r => (List.range 5).flatMap fun c => [(l, r, c)] := by
  decide +kernel

section
variable (kindMacro : Byte) (m d : Keymap)

/-- CFG.ENC writes an entry for the cell at these coordinates (45_config_codec.md R290). -/
def isEncoded (p : Nat × Nat × Nat) : Bool :=
  !isFnPosition p.2.1 p.2.2 && !actEq kindMacro (cellAt m p.1 p.2.1 p.2.2) (cellAt d p.1 p.2.1 p.2.2)

theorem isEncoded_coords (i : Fin 50) :
    isEncoded kindMacro m d (coords i) = (!isFnCell i && !actEq kindMacro m[i] d[i]) := by
  simp only [isEncoded, coords, cellAt_coords]
  rfl

/-- The two tests inside the innermost loop of 45_config_codec.md R290. -/
theorem filter_isEncoded_singleton (l r c : Nat) : [(l, r, c)].filter (isEncoded kindMacro m d) =
    if r = 4 ∧ c = 2 then [] else
    if actEq kindMacro (cellAt m l r c) (cellAt d l r c) then [] else [(l, r, c)] := by
  rw [List.filter_singleton, isEncoded, ← if_congr (isFnPosition_iff r c) rfl rfl]
  cases isFnPosition r c <;> cases actEq kindMacro (cellAt m l r c) (cellAt d l r c) <;> rfl

/-- The cells that an encoding carries are those the three nested loops of 45_config_codec.md R290 select. -/
theorem map_coords_diffCells : (diffCells kindMacro m d).map coords =
    (List.range 2).flatMap fun l => (List.range 5).flatMap fun r => (List.range 5).flatMap fun c =>
      if r = 4 ∧ c = 2 then [] else
      if actEq kindMacro (cellAt m l r c) (cellAt d l r c) then [] else [(l, r, c)] := by
  calc (diffCells kindMacro m d).map coords
    _ = (allCells.map coords).filter (isEncoded kindMacro m d) := by
      rw [List.filter_map, diffCells]
      exact congrArg _ (List.filter_congr fun i _ => (isEncoded_coords kindMacro m d i).symm)
    _ = _ := by simp only [map_coords_allCells, List.filter_flatMap, filter_isEncoded_singleton]

/-- An entry's bytes by the cell's coordinates, the steps cut at the length byte (45_config_codec.md R290). -/
theorem entryBytes_by_coords (i : Fin 50) : entryBytes kindMacro i m[i] =
    let p := coords i
    let a := cellAt m p.1 p.2.1 p.2.2
    let mlen := if a.kind = kindMacro then a.steps.length else 0
    [BitVec.ofNat 8 p.1, BitVec.ofNat 8 p.2.1, BitVec.ofNat 8 p.2.2, a.kind, a.mask] ++ a.keys.toList ++
      [BitVec.ofNat 8 mlen] ++ (a.steps.take mlen).flatMap stepBytes := by
  simp only [coords, cellAt_coords, entryBytes]
  split_ifs
  · rw [List.take_length]
  · rfl

end

/-- Settles O40: the loops give the cells' coordinates, and the entries, count and CRC follow. -/
theorem cfgEncScansLayersRowsColumns : Obligations.CfgEncScansLayersRowsColumns := by
  intro s _ km cells entry out crc
  have hcells : cells = (diffCells km s.work s.defMap).map coords := (map_coords_diffCells km s.work s.defMap).symm
  have hcount : cells.length = (diffCells km s.work s.defMap).length := by rw [hcells, List.length_map]
  have hentries : cells.flatMap entry = (diffCells km s.work s.defMap).flatMap fun i => entryBytes km i s.work[i] := by
    rw [hcells, List.flatMap_map]
    exact congrArg (fun f => List.flatMap f _) (funext fun i => (entryBytes_by_coords km s.work i).symm)
  have henc : cfgEnc km s.work s.defMap = cfgPayload 0 cells.length (cells.flatMap entry) := by
    rw [hcount, hentries, cfgEnc_eq_cfgPayload]
  exact (exec_cfgEnc s).trans (congrArg (fun p => Host.Outcome.next (s.start.finish (.bytes p))) henc)

end Sys2Proof.Machine

namespace Sys2Proof.Machine

/-! ## CFG.DEC gives valid keymaps

The decoder accepts no macro above 16 steps (45_config_codec.md R299), so an accepted payload leaves a valid keymap valid
(10_state.md R37). -/

theorem keymapValid_set {m : Keymap} (hm : keymapValid m) (i : Fin 50) {a : Action}
    (ha : a.steps.length ≤ Config.macroMax) : keymapValid (m.set i.val a i.isLt) := fun j => by
  by_cases hij : i.val = j.val
  · simpa [Vector.getElem_set, hij] using ha
  · simpa [Vector.getElem_set, hij] using hm j

@[simp] theorem stepsAt_length (p : Bytes) : ∀ pos n : Nat, (stepsAt p pos n).length = n
  | _, 0 => rfl
  | pos, n + 1 => congrArg Nat.succ (stepsAt_length p (pos + Config.stepLen) n)

/-- An accepted entry sets one cell to an action with at most 16 steps. -/
theorem cfgEntry_ok_sets_cell {kindMacro : Byte} {p : Bytes} {pos stop : Nat} {m : Keymap} {r : Keymap × Nat}
    (h : cfgEntry kindMacro p pos stop m = .ok r) :
    ∃ (i : Fin 50) (a : Action), a.steps.length ≤ Config.macroMax ∧ r.1 = m.set i.val a i.isLt := by
  have hfields : EntryFields p pos _ _ _ _ _ _ _ := ⟨rfl, rfl, rfl, rfl, rfl, rfl, rfl⟩
  by_cases hroom : pos + 12 ≤ stop
  · cases hcell : cellIndex (byteAt p pos).toNat (byteAt p (pos + 1)).toNat (byteAt p (pos + 2)).toNat with
    | none => cases (cfgEntry_of_outside hroom hfields hcell).symm.trans h
    | some i =>
      by_cases hkind : byteAt p (pos + 3) = kindMacro
      · rw [cfgEntry_of_macro hroom hfields hcell hkind] at h
        split_ifs at h with hlong
        cases h
        exact ⟨i, _, by simpa [Config.macroMax] using hlong, rfl⟩
      · rw [cfgEntry_of_otherKind hroom hfields hcell hkind] at h
        split_ifs at h
        cases h
        exact ⟨i, _, Nat.zero_le _, rfl⟩
  · cases (cfgEntry_of_short (Nat.lt_of_not_le hroom)).symm.trans h

theorem cfgEntries_keeps_valid {kindMacro : Byte} {p : Bytes} {stop : Nat} : ∀ {count pos : Nat} {m : Keymap}
    {r : Keymap × Nat}, keymapValid m → cfgEntries kindMacro p stop count pos m = .ok r → keymapValid r.1
  | 0, _, _, _, hm, h => by cases h; exact hm
  | count + 1, pos, m, r, hm, h => by
    rw [cfgEntries] at h
    cases hentry : cfgEntry kindMacro p pos stop m with
    | err cls sub => rw [hentry] at h; cases h
    | ok next =>
      obtain ⟨i, a, ha, hset⟩ := cfgEntry_ok_sets_cell hentry
      rw [hentry] at h
      exact cfgEntries_keeps_valid (hset ▸ keymapValid_set hm i ha) h

/-- A payload that decodes passed the three checks before its entries, and all its entries were accepted. -/
theorem cfgEntries_of_cfgDec_ok {kindMacro : Byte} {p : Bytes} {d m : Keymap} (h : cfgDec kindMacro p d = .ok m) :
    ∃ pos, cfgEntries kindMacro p (p.length - 2) (le16 (byteAt p 5) (byteAt p 6)).toNat 7 d = .ok (m, pos) := by
  by_cases hlong : 9 ≤ p.length
  · by_cases hheader : CfgHeaderMatches p
    · by_cases hcrc : CfgCrcMatches p
      · cases hentries : cfgEntries kindMacro p (p.length - 2) (le16 (byteAt p 5) (byteAt p 6)).toNat 7 d with
        | err cls sub => cases (cfgDec_of_entries_err ⟨hlong, hheader, hcrc⟩ hentries).symm.trans h
        | ok r =>
          rw [cfgDec_of_entries_ok ⟨hlong, hheader, hcrc⟩ hentries] at h
          split_ifs at h
          cases h
          exact ⟨r.2, rfl⟩
      · cases (cfgDec_of_badCrc hlong hheader hcrc).symm.trans h
    · cases (cfgDec_of_badHeader hlong hheader).symm.trans h
  · cases (cfgDec_of_short (Nat.lt_of_not_le hlong)).symm.trans h

theorem cfgDec_keeps_valid {kindMacro : Byte} {p : Bytes} {d m : Keymap} (hd : keymapValid d)
    (h : cfgDec kindMacro p d = .ok m) : keymapValid m := by
  obtain ⟨pos, hentries⟩ := cfgEntries_of_cfgDec_ok h
  exact cfgEntries_keeps_valid hd hentries

/-! ## Every operation keeps the invariant

One lemma for each shared operation, in the order of the model; those that write no field the invariant speaks of hand it
on field by field. -/

namespace State.Inv

variable {s : State} (h : s.Inv)
include h

theorem start : s.start.Inv := { h with }

theorem finish (r : Result) : (s.finish r).Inv := { h with }

theorem refuse (why : RefuseReason) : (s.refuse why).Inv := { h with }

theorem emit (e : Event) : (s.emit e).Inv := { h with }

theorem clearFlags : s.clearFlags.Inv := { h with }

theorem withInbox (q : List Issue) : State.Inv { s with inbox := q } := { h with }

theorem withCrcAcc (a : Half) : State.Inv { s with crcAcc := a } := { h with }

theorem withWork {m : Keymap} (hm : keymapValid m) : State.Inv { s with work := m } := { h with work_valid := hm }

theorem setFlag (v : Bool) (g : ChainFlag) : (s.setFlag v g).Inv := by
  cases g <;> exact { h with }

theorem requestFlag (g : ChainFlag) (bit : Bool) : (s.requestFlag g bit).Inv := by
  cases bit with
  | false => exact h
  | true => exact h.setFlag true g

/-! ### The session -/

theorem setPend (k : Byte) {entry : Option PendEntry}
    (hentry : ∀ e, entry = some e → s.now < e.deadline ∧ e.deadline ≤ s.now + Config.timeoutMs) :
    (s.setPend k entry).Inv :=
  { h with
    deadlines := fun j e he => by
      rw [State.pendAt_setPend] at he
      split_ifs at he
      · exact hentry e he
      · exact h.deadlines j e he }

/-- A registered request expires 5000 ms from now (42_frame_tx.md R186). -/
theorem sendFrame (type : Byte) (payload : Bytes) (silent : Bool) : (s.sendFrame type payload silent).Inv := by
  have hsent : (s.sendFrame type payload true).Inv := { h with }
  cases silent with
  | true => exact hsent
  | false =>
    refine hsent.setPend s.seqNext fun e he => ?_
    cases he
    exact ⟨Nat.lt_add_of_pos_right (by decide), le_rfl⟩

theorem sendOp {before : State → State} (hbefore : (before s.start).Inv) (type : Byte) (payload : Bytes)
    (silent : Bool) : (s.sendOp before type payload silent).Inv := by
  obtain ⟨-, heq⟩ | ⟨-, heq⟩ := s.sendOp_cases before type payload silent <;> rw [heq]
  · exact (hbefore.sendFrame type payload silent).finish _
  · exact h.refuse .payloadTooLong

theorem resolve (k : Byte) (status : Status) (sub : Sub) (reason : Bytes) : (s.resolve k status sub reason).Inv := by
  cases hk : s.pendAt k with
  | none => rw [State.resolve_none hk]; exact h
  | some e =>
    rw [State.resolve, hk]
    exact (h.setPend k fun _ he => by cases he).emit _

theorem resolveAndChain (k : Byte) (flag : ChainFlag) (next : Byte) : (s.resolveAndChain k flag next).Inv := by
  have hcleared := (h.resolve k .ok .none []).setFlag false flag
  obtain ⟨-, heq⟩ | ⟨_, -, ⟨-, heq⟩ | ⟨-, heq⟩⟩ := s.resolveAndChain_cases k flag next <;> rw [heq]
  · exact h
  · exact hcleared
  · exact hcleared.sendFrame next [] false

theorem receiveGetmap (f : Frame) : (Machine.receiveGetmap f s).Inv := by
  rw [Machine.receiveGetmap]
  cases s.pendAt f.seq with
  | none => exact h
  | some e =>
    cases hd : cfgDec s.params.kindMacro f.payload s.defMap with
    | ok m => exact ((h.withWork (cfgDec_keeps_valid h.defMap_valid hd)).resolve f.seq .ok .none []).emit _
    | err cls sub => exact h.resolve f.seq cls sub []

theorem receiveError (f : Frame) : (Machine.receiveError f s).Inv :=
  h.clearFlags.resolve f.seq .deviceError .none f.payload

/-- TICK leaves the entries that are due later than the new time, and what was due at most 5000 ms from the old one is so
from the new (44_session.md R262). -/
theorem tick (t : Nat) : ∃ u, execTick t s = .next u ∧ u.Inv := by
  obtain ⟨-, heq⟩ | ⟨hle, u, heq, hu, hpend⟩ := execTick_cases t s
  · exact ⟨_, heq, h.refuse .timeBackwards⟩
  · refine ⟨u, heq, ?_⟩
    have hdeadlines (k : Byte) (e : PendEntry) (he : u.pendAt k = some e) :
        t < e.deadline ∧ e.deadline ≤ t + Config.timeoutMs := by
      rw [hpend, Option.filter_eq_some_iff] at he
      obtain ⟨hold, hlater⟩ := he
      obtain ⟨-, hsoon⟩ := h.deadlines k e hold
      exact ⟨of_decide_eq_true hlater, by omega⟩
    rw [hu]
    exact { h with deadlines := hdeadlines }

/-! ### The receive path -/

theorem dispatchFrame (type : Byte) (f : Frame) : (Machine.dispatchFrame type f s).Inv := by
  unfold Machine.dispatchFrame
  split_ifs
  · exact h
  · exact h
  · exact h.receiveGetmap f
  · exact h.resolveAndChain f.seq .saveAfterWrite Config.typeSave
  · exact h.resolve f.seq .ok .none []
  · exact h.resolveAndChain f.seq .fetchAfterLoad Config.typeGetmap
  · exact h.resolveAndChain f.seq .fetchAfterReset Config.typeGetmap
  · exact h.resolve f.seq .ok .none []
  · exact h.receiveError f
  · exact h

theorem receiveFrame (y : Bytes) : (s.receiveFrame y).Inv := by
  obtain ⟨-, heq⟩ | ⟨d, -, ⟨-, heq⟩ | ⟨cls, sub, k, -, heq⟩ | ⟨f, -, heq⟩⟩ := s.receiveFrame_cases y <;> rw [heq]
  · exact h
  · exact h
  · exact h.resolve k cls sub []
  · exact h.dispatchFrame f.type _

theorem resetAccumulator : s.resetAccumulator.Inv :=
  { h with
    rxLen_le := Nat.zero_le _
    rxOvf_full := fun hovf => by cases hovf
    rxbuf_no_term := fun a ha => absurd ha (Nat.not_lt_zero a) }

/-- A byte with room is stored at `rx_len`, inside RXBUF; one without room finds the accumulator full (43_frame_rx.md
R201, R204). -/
theorem accumulate {b : Byte} (hb : b ≠ Config.term) : (s.accumulate b).Inv := by
  obtain ⟨hroom, heq⟩ | ⟨hfull, heq⟩ := s.accumulate_cases b <;> rw [heq]
  · exact { h with
      rxbuf_wf := Memory.write_keeps_wf s.rxbuf s.rxLen b h.rxbuf_wf
      rxbuf_inside := fun c hc => by
        obtain rfl | hold := Memory.mem_write hc
        · exact hroom
        · exact h.rxbuf_inside c hold
      rxLen_le := hroom
      rxOvf_full := fun hovf => absurd (h.rxOvf_full hovf) hroom.ne
      rxbuf_no_term := fun a (ha : a < s.rxLen + 1) => by
        by_cases hnew : a = s.rxLen
        · rw [hnew, Memory.read_write_same s.rxLen hb]
          exact hb
        · rw [Memory.read_write_other b hnew]
          exact h.rxbuf_no_term a (by omega) }
  · exact { h with rxOvf_full := fun _ => le_antisymm h.rxLen_le hfull }

theorem rxByte (b : Byte) : (s.rxByte b).Inv := by
  by_cases hb : b = Config.term
  · rw [hb, State.rxByte_term]
    obtain ⟨-, heq⟩ | ⟨-, heq⟩ := s.closeFrame_cases <;> rw [heq]
    · exact h.resetAccumulator
    · exact h.resetAccumulator.receiveFrame _
  · rw [State.rxByte_data s hb]
    exact h.accumulate hb

theorem rxBytes (x : Bytes) : (s.rxBytes x).Inv := by
  induction x generalizing s with
  | nil => exact h
  | cons b x ih => exact ih (h.rxByte b)

/-! ### The edit port and RESET -/

theorem cfgWr (l r c : Nat) (a : Action) : ∃ t, execCfgWr l r c a s = .next t ∧ t.Inv := by
  obtain ⟨why, heq⟩ | ⟨i, -, -, hlen, heq⟩ := execCfgWr_cases l r c a s
  · exact ⟨_, heq, h.refuse why⟩
  · exact ⟨_, heq, h.start.withWork (keymapValid_set h.work_valid i hlen)⟩

/-- RESET empties the accumulator and the pending table; WORK becomes the default (70_reset_and_hazards.md R360). -/
theorem reset : ∃ t, execReset s = .next t ∧ t.Inv :=
  ⟨_, rfl, { h.resetAccumulator with
    deadlines := fun k e he => by
      have hnone : (Vector.replicate 256 (none : Option PendEntry))[k.toNat]'k.isLt = none := Vector.getElem_replicate _
      cases hnone.symm.trans he
    work_valid := h.defMap_valid }⟩

/-! ### One instruction, one step -/

/-- From a state with the invariant every instruction completes and keeps it. -/
theorem exec (i : Instr) : ∃ t, Machine.exec i s = .next t ∧ t.Inv := by
  have hs := h.start
  cases i with
  | ping f | pong f => exact ⟨_, rfl, hs⟩
  | getmap f => exact ⟨_, rfl, hs.receiveGetmap f⟩
  | setmap f | load f | resetdefault f => exact ⟨_, rfl, hs.resolveAndChain f.seq _ _⟩
  | save f | getinfo f => exact ⟨_, rfl, hs.resolve f.seq .ok .none []⟩
  | error f => exact ⟨_, rfl, hs.receiveError f⟩
  | crcInit | crcUpd b => exact ⟨_, rfl, hs.withCrcAcc _⟩
  | crcGet | crcBuf x | cobsEnc x | cobsDec y | frameParse d | actEq a b | cfgEnc | cfgDec p =>
    exact ⟨_, rfl, hs.finish _⟩
  | frameBuild type seq payload | frameEnc type seq payload =>
    refine ⟨_, rfl, ?_⟩
    split
    · exact h.refuse .payloadTooLong
    · exact hs.finish _
  | send type payload silent => exact ⟨_, rfl, h.sendOp hs type payload silent⟩
  | reqPing => exact ⟨_, rfl, h.sendOp hs _ [] true⟩
  | reqGetmap | reqSave | reqGetinfo => exact ⟨_, rfl, h.sendOp hs _ [] false⟩
  | reqSetmap bit | reqLoad bit | reqResetdefault bit =>
    exact ⟨_, rfl, h.sendOp (hs.requestFlag _ bit) _ _ false⟩
  | rxByte b => exact ⟨_, exec_rxByte b h.rxLen_le, hs.rxByte b⟩
  | rxChunk x => exact ⟨_, exec_rxChunk x h.rxLen_le, hs.rxBytes x⟩
  | tick t => exact h.tick t
  | cfgRd l r c =>
    refine ⟨_, rfl, ?_⟩
    cases cellIndex l r c with
    | none => exact h.refuse .badIndex
    | some k => exact hs.finish _
  | cfgWr l r c a => exact h.cfgWr l r c a
  | reset => exact h.reset

end State.Inv

/-- Settles O51: an idle block stays; the wire port is RX.CHUNK of its bytes; the request port runs an instruction or is
refused. -/
theorem everyStepCompletesAndKeepsInvariant : Obligations.EveryStepCompletesAndKeepsInvariant := by
  intro s h
  cases hinbox : s.inbox with
  | nil => exact ⟨s, step_idle hinbox, h⟩
  | cons q rest =>
    have htaken := h.withInbox rest
    have hfetch := State.fetch_of_inbox hinbox
    obtain ⟨port, bytes⟩ := q
    cases port with
    | wire =>
      rw [wirePortIsRxChunk s bytes rest hinbox]
      exact htaken.exec (.rxChunk bytes)
    | request =>
      cases hdec : decode { port := .request, bytes := bytes } with
      | ok i =>
        rw [step_of_fetch_run (hfetch.trans (fetchIssue_request rfl hdec _))]
        exact htaken.exec i
      | error e =>
        exact ⟨_, step_of_fetch_reject (hfetch.trans (fetchIssue_request_error rfl hdec _)), htaken.refuse _⟩

end Sys2Proof.Machine

namespace Sys2Proof.Machine

/-! ## Refusals and drops -/

theorem exec_frameEnc_of_lt (type seq : Byte) {payload : Bytes} (h : Config.maxPayload < payload.length) (s : State) :
    exec (.frameEnc type seq payload) s = .next (s.refuse .payloadTooLong) :=
  show execFrameEnc type seq payload s = _ by rw [execFrameEnc, payloadTooLong_eq_true h]; rfl

/-- Settles O11: the refusal of each of the three operations. -/
theorem tooLongPayloadRefused : Obligations.TooLongPayloadRefused := fun type seq _ silent s hlong =>
  ⟨exec_frameBuild_of_lt type seq hlong s, exec_frameEnc_of_lt type seq hlong s,
    congrArg Host.Outcome.next (s.sendOp_of_lt id type silent hlong)⟩

theorem State.receiveFrame_of_err {y : Bytes} {cls : Status} {sub : Sub} (hd : cobsDec y = .err cls sub) (s : State) :
    s.receiveFrame y = s := by
  simp only [State.receiveFrame, hd]

/-- Settles O25: an overflowed frame is not looked at, and of the others the COBS failure is dropped. -/
theorem framingErrorDropsTheFrame : Obligations.FramingErrorDropsTheFrame := by
  intro s hle hdrop
  refine (exec_rxByte_term hle).trans (congrArg Host.Outcome.next ?_)
  change s.start.closeFrame = s.start.resetAccumulator
  obtain ⟨-, heq⟩ | ⟨hclear, heq⟩ := s.start.closeFrame_cases <;> rw [heq]
  obtain hovf | ⟨cls, sub, hd⟩ := hdrop
  · cases hovf.symm.trans hclear
  · exact State.receiveFrame_of_err hd _

end Sys2Proof.Machine

namespace Sys2Proof.Machine

/-! ## How many events one operation emits

By the shape of the list an operation leaves: what one received byte can emit is one of four lists, a send operation emits
one `Tx` or is refused, and TICK at most one `Notify` for each of the 256 entries (60_exceptions.md R331). -/

/-- The lists of events that one received frame can emit: nothing; the one `Notify` of a Resolve; that and the `Tx` of the
command it chains; that and the `ConfigUpdated` of a GetMap answer. -/
inductive FrameEvents : List Event → Prop where
  | silent : FrameEvents []
  | resolved (cmd seq : Byte) (status : Status) (sub : Sub) (reason : Bytes) :
      FrameEvents [.notify cmd seq status sub reason]
  | chained (cmd seq : Byte) (status : Status) (sub : Sub) (reason wire : Bytes) :
      FrameEvents [.notify cmd seq status sub reason, .tx wire]
  | updated (cmd seq : Byte) (status : Status) (sub : Sub) (reason : Bytes) :
      FrameEvents [.notify cmd seq status sub reason, .configUpdated]

namespace FrameEvents

theorem counts {es : List Event} (h : FrameEvents es) : countTx es ≤ 1 ∧ countNotify es ≤ 1 ∧ countUpdated es ≤ 1 ∧
    (countTx es = 0 ∨ countUpdated es = 0) := by
  cases h <;> simp [countTx, countNotify, countUpdated]

section
variable {s : State} (hs : s.events = [])
include hs

theorem of_events_eq_nil : FrameEvents s.events := hs ▸ silent

theorem resolve (k : Byte) (status : Status) (sub : Sub) (reason : Bytes) :
    FrameEvents (s.resolve k status sub reason).events := by
  cases h : s.pendAt k with
  | none => rw [State.resolve_none h]; exact of_events_eq_nil hs
  | some e => rw [State.resolve_some h, hs]; exact resolved ..

theorem resolveAndChain (k : Byte) (flag : ChainFlag) (next : Byte) :
    FrameEvents (s.resolveAndChain k flag next).events := by
  obtain ⟨-, heq⟩ | ⟨e, hk, ⟨-, heq⟩ | ⟨-, heq⟩⟩ := s.resolveAndChain_cases k flag next <;> rw [heq]
  · exact of_events_eq_nil hs
  · rw [State.setFlag_events]
    exact resolve hs k .ok .none []
  · rw [State.sendFrame_eq, State.setFlag_events, State.resolve_some hk, hs]
    exact chained ..

theorem receiveGetmap (f : Frame) : FrameEvents (Machine.receiveGetmap f s).events := by
  obtain ⟨-, heq⟩ | ⟨e, m, -, -, heq⟩ | ⟨e, cls, sub, -, -, heq⟩ := receiveGetmap_cases f s <;> rw [heq]
  · exact of_events_eq_nil hs
  · rw [hs]
    exact updated ..
  · exact resolve hs f.seq cls sub []

theorem dispatchFrame (type : Byte) (f : Frame) : FrameEvents (Machine.dispatchFrame type f s).events := by
  unfold Machine.dispatchFrame
  split_ifs
  · exact of_events_eq_nil hs
  · exact of_events_eq_nil hs
  · exact receiveGetmap hs f
  · exact resolveAndChain hs f.seq .saveAfterWrite Config.typeSave
  · exact resolve hs f.seq .ok .none []
  · exact resolveAndChain hs f.seq .fetchAfterLoad Config.typeGetmap
  · exact resolveAndChain hs f.seq .fetchAfterReset Config.typeGetmap
  · exact resolve hs f.seq .ok .none []
  · exact resolve (s := s.clearFlags) hs f.seq .deviceError .none f.payload
  · exact of_events_eq_nil hs

theorem receiveFrame (y : Bytes) : FrameEvents (s.receiveFrame y).events := by
  obtain ⟨-, heq⟩ | ⟨d, -, ⟨-, heq⟩ | ⟨cls, sub, k, -, heq⟩ | ⟨f, -, heq⟩⟩ := s.receiveFrame_cases y <;> rw [heq]
  · exact of_events_eq_nil hs
  · exact of_events_eq_nil hs
  · exact resolve hs k cls sub []
  · exact dispatchFrame hs f.type _

theorem closeFrame : FrameEvents s.closeFrame.events := by
  obtain ⟨-, heq⟩ | ⟨-, heq⟩ := s.closeFrame_cases <;> rw [heq]
  · exact of_events_eq_nil hs
  · exact receiveFrame (s := s.resetAccumulator) hs _

end

end FrameEvents

@[simp] theorem State.accumulate_events (s : State) (b : Byte) : (s.accumulate b).events = s.events := by
  obtain ⟨-, heq⟩ | ⟨-, heq⟩ := s.accumulate_cases b <;> rw [heq]

/-- RX.BYTE: only the terminator emits. -/
theorem rxByte_events {b : Byte} {s t : State} (h : exec (.rxByte b) s = .next t) :
    FrameEvents t.events ∧ (b ≠ 0 → t.events = []) := by
  rw [execRxByte_next h]
  by_cases hb : b = Config.term
  · rw [hb, State.rxByte_term]
    exact ⟨.closeFrame rfl, fun hne => absurd rfl hne⟩
  · rw [State.rxByte_data _ hb, State.accumulate_events]
    exact ⟨.silent, fun _ => rfl⟩

theorem State.countUpdated_timeouts (s : State) (n : Nat) : countUpdated (s.timeouts n) = 0 := by
  refine List.countP_eq_zero.mpr fun ev hev => ?_
  obtain ⟨k, e, -, -, rfl⟩ := (s.mem_timeouts n ev).mp hev
  simp

theorem State.length_timeouts_le (s : State) (n : Nat) : (s.timeouts n).length ≤ 256 :=
  (List.length_filterMap_le _ allSeqs).trans_eq (by simp [allSeqs])

theorem tick_events {n : Nat} {s t : State} (h : exec (.tick n) s = .next t) :
    t.events = [] ∨ t.events = s.timeouts n := by
  obtain ⟨-, heq⟩ | ⟨-, u, heq, hu, -⟩ := execTick_cases n s
  · cases heq.symm.trans h
    exact .inl rfl
  · cases heq.symm.trans h
    exact .inr (by rw [hu])

theorem tick_counts {n : Nat} {s t : State} (h : exec (.tick n) s = .next t) :
    countTx t.events = 0 ∧ countNotify t.events ≤ 256 ∧ countUpdated t.events = 0 := by
  obtain heq | heq := tick_events h <;> rw [heq]
  · exact ⟨rfl, Nat.zero_le _, rfl⟩
  · exact ⟨s.countTx_timeouts n, List.countP_le_length.trans (s.length_timeouts_le n), s.countUpdated_timeouts n⟩

@[simp] theorem State.requestFlag_events (s : State) (g : ChainFlag) (bit : Bool) :
    (s.requestFlag g bit).events = s.events := by
  cases bit with
  | false => rfl
  | true => exact s.setFlag_events true g

/-- The one `Tx` of an operation that sent, or the silence of one that was refused. -/
def SendEvents (t : State) : Prop :=
  countNotify t.events = 0 ∧ countUpdated t.events = 0 ∧
    countTx t.events = if t.result = .refused .payloadTooLong then 0 else 1

/-- What a send operation does first must emit nothing itself. -/
theorem sendEvents_sendOp {s : State} {before : State → State} (hbefore : (before s.start).events = [])
    (type : Byte) (payload : Bytes) (silent : Bool) : SendEvents (s.sendOp before type payload silent) := by
  obtain ⟨-, heq⟩ | ⟨-, heq⟩ := s.sendOp_cases before type payload silent <;> rw [heq, SendEvents]
  · have hresult : Result.seq s.seqNext ≠ .refused .payloadTooLong := nofun
    rw [State.finish_events, State.finish_result, State.sendFrame_eq, hbefore, if_neg hresult]
    exact ⟨rfl, rfl, rfl⟩
  · rw [State.refuse_events, State.refuse_result, if_pos rfl]
    exact ⟨rfl, rfl, rfl⟩

/-- The codec, parser, edit and CRC operations and RESET, the last row of 60_exceptions.md R331. -/
def emitsNothing : Instr → Bool
  | .crcInit | .crcUpd _ | .crcGet | .crcBuf _ => true
  | .cobsEnc _ | .cobsDec _ => true
  | .frameBuild _ _ _ | .frameEnc _ _ _ | .frameParse _ => true
  | .actEq _ _ | .cfgEnc | .cfgDec _ | .cfgRd _ _ _ | .cfgWr _ _ _ _ => true
  | .reset => true
  | _ => false

theorem events_eq_nil_of_emitsNothing {i : Instr} {s t : State} (hi : emitsNothing i = true)
    (h : exec i s = .next t) : t.events = [] := by
  cases i with
  | crcInit | crcUpd b | crcGet | crcBuf x | cobsEnc x | cobsDec y | frameParse d | actEq a b | cfgEnc | cfgDec p
  | reset => cases h; rfl
  | frameBuild type seq payload | frameEnc type seq payload => cases h; split <;> rfl
  | cfgRd l r c => cases h; cases cellIndex l r c <;> rfl
  | cfgWr l r c a =>
    obtain ⟨why, heq⟩ | ⟨k, -, -, -, heq⟩ := execCfgWr_cases l r c a s <;> cases heq.symm.trans h <;> rfl
  | _ => cases hi

/-- Settles O59, row by row of the table. -/
theorem eventsPerOperation : Obligations.EventsPerOperation := by
  intro i s t h
  refine ⟨?rxByte, ?tick, ?send, ?nothing⟩
  case rxByte =>
    rintro b rfl
    obtain ⟨hevents, hdata⟩ := rxByte_events h
    obtain ⟨htx, hnotify, hupdated, hone⟩ := hevents.counts
    exact ⟨htx, hnotify, hupdated, hone, hdata⟩
  case tick =>
    rintro n rfl
    exact tick_counts h
  case send =>
    simp only [List.mem_cons, List.not_mem_nil, or_false]
    rintro (hplain | ⟨bit, hflagged⟩ | ⟨type, payload, silent, rfl⟩)
    · obtain rfl | rfl | rfl | rfl := hplain <;> cases h <;> exact sendEvents_sendOp rfl _ _ _
    · obtain rfl | rfl | rfl := hflagged <;> cases h <;>
        exact sendEvents_sendOp (State.requestFlag_events _ _ bit) _ _ _
    · cases h
      exact sendEvents_sendOp rfl type payload silent
  case nothing =>
    intro hi
    refine events_eq_nil_of_emitsNothing ?_ h
    simp only [List.mem_cons, List.not_mem_nil, or_false] at hi
    obtain (rfl | rfl | rfl | rfl) | ⟨b, rfl⟩ | ⟨x, rfl | rfl | rfl | rfl | rfl⟩ | ⟨type, k, p, rfl | rfl⟩ | ⟨a, b, rfl⟩ |
      ⟨l, r, c, rfl⟩ | ⟨l, r, c, a, rfl⟩ := hi <;> rfl

end Sys2Proof.Machine

namespace Sys2Proof.Machine

/-! ## RESET -/

/-- RESET against the state at power-on (70_reset_and_hazards.md R360): the parameters, DEF, RXBUF and the operations
already issued are all that stays of the old state; WORK and `seq_next` come from DEF and SEQ_RESET as they are there. -/
theorem exec_reset (s : State) : exec .reset s = .next { State.reset with
    params := s.params, defMap := s.defMap, rxbuf := s.rxbuf, inbox := s.inbox
    seqNext := s.params.seqReset, work := s.defMap, result := .unit } := rfl

/-- Settles O48: `exec_reset`, with the values of `State.reset` read off; the model leaves RXBUF as it is (log 9). -/
theorem resetOperationReinitialises : Obligations.ResetOperationReinitialises := by
  intro s
  exact ⟨s.rxbuf, exec_reset s⟩

end Sys2Proof.Machine
